-- ==== Sys2Proof/Word.lean ====
section
/-! DEFINITION. The words, masks and numbers of the block, and the architectural constants of 00_scope.md R7. -/

namespace Sys2Proof

/-- A register value: an unsigned 32-bit number (R12). -/
abbrev Word := BitVec 32

/-- One byte of a byte-array register (R126). -/
abbrev Byte := BitVec 8

/-- A CPU bitmask: bit `i` stands for CPU `i` (R12). -/
abbrev CpuMask := BitVec 8

/-- A priority: numerically lower is more urgent (R12, R13). -/
abbrev Prio := BitVec 8

/-- A physical CPU, and the virtual CPU served by its banks (R7, R8: NCPU = NVCPU = 8). -/
abbrev Cpu := Fin 8

/-- An interrupt ID of the state store (R7: NIRQ = 512). -/
abbrev Irq := Fin 512

/-- The index of a list register (R7: NLR = 4). -/
abbrev LrIx := Fin 4

/-- NSGI (R7): IDs below it are software-generated interrupts. -/
abbrev nSgi : Nat := 16

/-- NPRIV (R7): IDs below it are banked per CPU. -/
abbrev nPriv : Nat := 32

/-- NIRQ (R7): the size of the ID space. -/
abbrev nIrq : Nat := 512

/-- IDLE_PRIO (R7): the running priority of an idle CPU. -/
abbrev idlePrio : Prio := 0xff#8

/-- SPURIOUS_IRQ (R7), as the word an acknowledge returns for "no interrupt" (R129). -/
abbrev spuriousWord : Word := 1023#32

/-- ALL_CPUS (R15). -/
abbrev allCpus : CpuMask := 0xff#8

/-- `better p q` of R13: strictly higher priority is strictly lower as a number. -/
abbrev better (p q : Prio) : Bool := p.ult q

end Sys2Proof
end

