-- ==== Sys2Proof/Config.lean ====
section
/-! DEFINITION. What an implementation fixes: the parameters of 00_scope.md R9, R10 and R11, and the configuration
errors of 60_exceptions.md R435. The state carries them, so that a claim over every state is a claim for every choice. -/

namespace Sys2Proof

/-- ACCESS_ERROR_POLICY (R11, R86). -/
inductive AccessErrorPolicy where
  | error
  | razWi
deriving DecidableEq, Repr

/-- APR_SELECT (R11, R333): the bit "find-last-set" names. -/
inductive AprSelect where
  | msb
  | lsb
deriving DecidableEq, Repr

/-- DIST_BASE, CPU_BASE, VIFCTRL_BASE and VCPU_BASE (R11, 20_memory.md R89): the system addresses at which the platform
maps the four windows. `none` is the default of R11, OPEN: the platform has not said where the window lies. A base is a
number, since the spec gives system addresses no width (DESIGN CHOICE, safe: log 15). -/
structure WindowBases where
  dist : Option Nat
  cpu : Option Nat
  vifctrl : Option Nat
  vcpu : Option Nat
deriving DecidableEq, Repr

/-- Every base OPEN (R11). -/
def WindowBases.allOpen : WindowBases where
  dist := none
  cpu := none
  vifctrl := none
  vcpu := none

/-- The parameters of one block. The three proofs are the conditions of R9 and R10, so that a block that failed
elaboration (R435) cannot be written down. VPRIO_SHIFT has the one value 3 (R11) and stands in the rules that use it. -/
structure Params where
  /-- NUM_CPU (R9): CPUs `0..numCpu-1` are connected. -/
  numCpu : Nat
  /-- NUM_SPI (R10). -/
  numSpi : Nat
  /-- ACCESS_ERROR_POLICY (R11). -/
  accessErrorPolicy : AccessErrorPolicy
  /-- EDGE_GATED_BY_SIGNALED (R11). -/
  edgeGatedBySignaled : Bool
  /-- ICACTIVER_PPI_UPDATES (R11). -/
  icactiverPpiUpdates : Bool
  /-- APR_SELECT (R11). -/
  aprSelect : AprSelect
  /-- DIST_BASE, CPU_BASE, VIFCTRL_BASE and VCPU_BASE (R11, R89). No rule of a step reads them. -/
  bases : WindowBases
  numCpu_pos : 0 < numCpu
  numCpu_le : numCpu ≤ 8
  numSpi_le : numSpi ≤ 480
deriving DecidableEq, Repr

namespace Params

/-- NIMPL (R10): IDs `0..nimpl-1` are implemented. -/
def nimpl (p : Params) : Nat := nPriv + p.numSpi

/-- `impl(irq)` of 41_distributor.md: the ID is implemented. -/
def impl (p : Params) (irq : Nat) : Bool := irq < p.nimpl

/-- CONNECTED (R15): (1 << NUM_CPU) - 1. -/
def connected (p : Params) : CpuMask := BitVec.ofNat 8 (2 ^ p.numCpu - 1)

/-- The defaults of R9, R10 and R11. -/
def standard : Params where
  numCpu := 8
  numSpi := 480
  accessErrorPolicy := .error
  edgeGatedBySignaled := false
  icactiverPpiUpdates := false
  aprSelect := .msb
  bases := .allOpen
  numCpu_pos := by decide
  numCpu_le := by decide
  numSpi_le := by decide

theorem nimpl_le (p : Params) : p.nimpl ≤ 512 := by
  have := p.numSpi_le
  simp only [nimpl, nPriv]
  omega

end Params

/-- The configuration errors of R435 that can arise. (A missing parent controller cannot: the four interfaces belong
to one block.) -/
inductive ConfigError where
  /-- NUM_CPU is outside 1..NCPU (R9). -/
  | badNumCpu
  /-- NUM_SPI is over NSPI, "too many configured interrupts" (R10). -/
  | tooManyInterrupts
deriving DecidableEq, Repr

/-- Elaboration (R435): the parameters, or the configuration error that aborts construction. With NUM_CPU and NUM_SPI
both out of range the spec says only that elaboration fails; the model then reports the error of NUM_CPU (DESIGN CHOICE,
safe: log 19). -/
def Params.elaborate (numCpu numSpi : Nat) (policy : AccessErrorPolicy) (edgeGated icactiverUpdates : Bool)
    (sel : AprSelect) (bases : WindowBases) : Except ConfigError Params :=
  if hc : 0 < numCpu ∧ numCpu ≤ 8 then
    if hs : numSpi ≤ 480 then
      .ok { numCpu, numSpi, accessErrorPolicy := policy, edgeGatedBySignaled := edgeGated,
            icactiverPpiUpdates := icactiverUpdates, aprSelect := sel, bases,
            numCpu_pos := hc.1, numCpu_le := hc.2, numSpi_le := hs }
    else .error .tooManyInterrupts
  else .error .badNumCpu

end Sys2Proof
end

