-- ==== Sys2Proof/Syntax.lean ====
section
/-! DEFINITION. The steps of the block as syntax: `Request`, a step as it is delivered and encoded (30_encoding.md R110,
R111), and `Instr`, one constructor for each row of spec/opcode_table.json. -/

namespace Sys2Proof

/-- The four bus windows (20_memory.md R80), numbered 0 to 3. -/
inductive Iface where
  | gicd
  | gicc
  | gich
  | gicv
deriving DecidableEq, Repr

/-- The width of an access in bytes (R81): 1, 2 or 4. -/
inductive Width where
  | w1
  | w2
  | w4
deriving DecidableEq, Repr

/-- The number of bytes of an access (R81). -/
abbrev Width.bytes : Width → Nat
  | .w1 => 1
  | .w2 => 2
  | .w4 => 4

/-- The two directions of a bus access (R81). -/
inductive Dir where
  | read
  | write
deriving DecidableEq, Repr

/-- The trigger mode of an interrupt (10_state.md R32). -/
inductive Trigger where
  | edge
  | level
deriving DecidableEq, Repr

/-- An input port (R111, R170): `ppi c k` is the line of PPI ID 16+k of CPU c, `spi s` the line of ID 32+s. -/
inductive Port where
  | ppi (c : Cpu) (k : Fin 16)
  | spi (s : Fin 480)
deriving DecidableEq, Repr

/-- The causes of an access error, AE1 to AE5 (60_exceptions.md R431). -/
inductive AccessErrorCode where
  | unmapped
  | writeRo
  | readWo
  | width
  | misaligned
deriving DecidableEq, Repr

/-- A step as the outside delivers it: a bus access with its 16-bit access key, width, initiator and data (R81, R110;
a read carries no data), an input-line event, or reset (R111). -/
inductive Request where
  | bus (key : BitVec 16) (n : Width) (init : Nat) (data : Word)
  | line (port : Port) (value : Bool)
  | reset
deriving DecidableEq, Repr

/-- The steps of the block, one constructor per row of spec/opcode_table.json. `init` is the initiator's CPU number
(R81), `word` the word index of a word array (R125, R127), `first` the index of the first byte of a byte-array access
(R126: an interrupt ID, or an SGI number for CPENDSGIR and SPENDSGIR), `n` the width, `data` the written data. -/
inductive Instr where
  /-- Read of the distributor at 0x0 (R201). -/
  | rdGicdCtlr (init : Nat)
  /-- Write of the distributor at 0x0 (R201). -/
  | wrGicdCtlr (init : Nat) (data : Word)
  /-- Read of the distributor at 0x4 (R260). -/
  | rdGicdTyper (init : Nat)
  /-- Read of the distributor at 0x100 (R202). -/
  | rdGicdIsenabler0 (init : Nat)
  /-- Write of the distributor at 0x100 (R202). -/
  | wrGicdIsenabler0 (init : Nat) (data : Word)
  /-- Read of the distributor at 0x104..0x13C (R202). -/
  | rdGicdIsenablerSpi (word : Nat) (init : Nat)
  /-- Write of the distributor at 0x104..0x13C (R202). -/
  | wrGicdIsenablerSpi (word : Nat) (init : Nat) (data : Word)
  /-- Read of the distributor at 0x180 (R203). -/
  | rdGicdIcenabler0 (init : Nat)
  /-- Write of the distributor at 0x180 (R203). -/
  | wrGicdIcenabler0 (init : Nat) (data : Word)
  /-- Read of the distributor at 0x184..0x1BC (R203). -/
  | rdGicdIcenablerSpi (word : Nat) (init : Nat)
  /-- Write of the distributor at 0x184..0x1BC (R203). -/
  | wrGicdIcenablerSpi (word : Nat) (init : Nat) (data : Word)
  /-- Read of the distributor at 0x200 (R210). -/
  | rdGicdIspendr0 (init : Nat)
  /-- Write of the distributor at 0x200 (R210). -/
  | wrGicdIspendr0 (init : Nat) (data : Word)
  /-- Read of the distributor at 0x204..0x23C (R210). -/
  | rdGicdIspendrSpi (word : Nat) (init : Nat)
  /-- Write of the distributor at 0x204..0x23C (R210). -/
  | wrGicdIspendrSpi (word : Nat) (init : Nat) (data : Word)
  /-- Read of the distributor at 0x280 (R211). -/
  | rdGicdIcpendr0 (init : Nat)
  /-- Write of the distributor at 0x280 (R211). -/
  | wrGicdIcpendr0 (init : Nat) (data : Word)
  /-- Read of the distributor at 0x284..0x2BC (R211). -/
  | rdGicdIcpendrSpi (word : Nat) (init : Nat)
  /-- Write of the distributor at 0x284..0x2BC (R211). -/
  | wrGicdIcpendrSpi (word : Nat) (init : Nat) (data : Word)
  /-- Read of the distributor at 0x300 (R220). -/
  | rdGicdIsactiver0 (init : Nat)
  /-- Read of the distributor at 0x304..0x33C (R220). -/
  | rdGicdIsactiverSpi (word : Nat) (init : Nat)
  /-- Read of the distributor at 0x380 (R223). -/
  | rdGicdIcactiver0 (init : Nat)
  /-- Write of the distributor at 0x380 (R222). -/
  | wrGicdIcactiver0 (init : Nat) (data : Word)
  /-- Read of the distributor at 0x384..0x3BC (R223). -/
  | rdGicdIcactiverSpi (word : Nat) (init : Nat)
  /-- Write of the distributor at 0x384..0x3BC (R222). -/
  | wrGicdIcactiverSpi (word : Nat) (init : Nat) (data : Word)
  /-- Read of the distributor at 0x400..0x41F (R224). -/
  | rdGicdIpriorityrPriv (first : Nat) (n : Width) (init : Nat)
  /-- Write of the distributor at 0x400..0x41F (R225). -/
  | wrGicdIpriorityrPriv (first : Nat) (n : Width) (init : Nat) (data : Word)
  /-- Read of the distributor at 0x420..0x5FF (R224). -/
  | rdGicdIpriorityrSpi (first : Nat) (n : Width) (init : Nat)
  /-- Write of the distributor at 0x420..0x5FF (R226). -/
  | wrGicdIpriorityrSpi (first : Nat) (n : Width) (init : Nat) (data : Word)
  /-- Read of the distributor at 0x800..0x81F (R227). -/
  | rdGicdItargetsrPriv (first : Nat) (n : Width) (init : Nat)
  /-- Read of the distributor at 0x820..0x9FF (R228). -/
  | rdGicdItargetsrSpi (first : Nat) (n : Width) (init : Nat)
  /-- Write of the distributor at 0x820..0x9FF (R229). -/
  | wrGicdItargetsrSpi (first : Nat) (n : Width) (init : Nat) (data : Word)
  /-- Read of the distributor at 0xC00 (R240). -/
  | rdGicdIcfgr0 (init : Nat)
  /-- Read of the distributor at 0xC04 (R240). -/
  | rdGicdIcfgr1 (init : Nat)
  /-- Write of the distributor at 0xC04 (R241). -/
  | wrGicdIcfgr1 (init : Nat) (data : Word)
  /-- Read of the distributor at 0xC08..0xC7C (R240). -/
  | rdGicdIcfgrSpi (word : Nat) (init : Nat)
  /-- Write of the distributor at 0xC08..0xC7C (R241). -/
  | wrGicdIcfgrSpi (word : Nat) (init : Nat) (data : Word)
  /-- Write of the distributor at 0xF00 (R231). -/
  | wrGicdSgir (init : Nat) (data : Word)
  /-- Read of the distributor at 0xF10..0xF1F (R250). -/
  | rdGicdCpendsgir (first : Nat) (n : Width) (init : Nat)
  /-- Write of the distributor at 0xF10..0xF1F (R252). -/
  | wrGicdCpendsgir (first : Nat) (n : Width) (init : Nat) (data : Word)
  /-- Read of the distributor at 0xF20..0xF2F (R250). -/
  | rdGicdSpendsgir (first : Nat) (n : Width) (init : Nat)
  /-- Write of the distributor at 0xF20..0xF2F (R251). -/
  | wrGicdSpendsgir (first : Nat) (n : Width) (init : Nat) (data : Word)
  /-- Read of the CPU interface at 0x0 (R271). -/
  | rdGiccCtlr (init : Nat)
  /-- Write of the CPU interface at 0x0 (R271). -/
  | wrGiccCtlr (init : Nat) (data : Word)
  /-- Read of the CPU interface at 0x4 (R272). -/
  | rdGiccPmr (init : Nat)
  /-- Write of the CPU interface at 0x4 (R272). -/
  | wrGiccPmr (init : Nat) (data : Word)
  /-- Read of the CPU interface at 0x8 (R273). -/
  | rdGiccBpr (init : Nat)
  /-- Write of the CPU interface at 0x8 (R273). -/
  | wrGiccBpr (init : Nat) (data : Word)
  /-- Read of the CPU interface at 0xC (R275). -/
  | rdGiccIar (init : Nat)
  /-- Write of the CPU interface at 0x10 (R280). -/
  | wrGiccEoir (init : Nat) (data : Word)
  /-- Read of the CPU interface at 0x14 (R291). -/
  | rdGiccRpr (init : Nat)
  /-- Read of the CPU interface at 0x18 (R290). -/
  | rdGiccHppir (init : Nat)
  /-- Read of the CPU interface at 0x1C (R273). -/
  | rdGiccAbpr (init : Nat)
  /-- Write of the CPU interface at 0x1C (R273). -/
  | wrGiccAbpr (init : Nat) (data : Word)
  /-- Read of the virtual CPU interface at 0x0 (R361). -/
  | rdGicvCtlr (init : Nat)
  /-- Write of the virtual CPU interface at 0x0 (R361). -/
  | wrGicvCtlr (init : Nat) (data : Word)
  /-- Read of the virtual CPU interface at 0x4 (R362). -/
  | rdGicvPmr (init : Nat)
  /-- Write of the virtual CPU interface at 0x4 (R362). -/
  | wrGicvPmr (init : Nat) (data : Word)
  /-- Read of the virtual CPU interface at 0x8 (R363). -/
  | rdGicvBpr (init : Nat)
  /-- Write of the virtual CPU interface at 0x8 (R363). -/
  | wrGicvBpr (init : Nat) (data : Word)
  /-- Read of the virtual CPU interface at 0xC (R366). -/
  | rdGicvIar (init : Nat)
  /-- Write of the virtual CPU interface at 0x10 (R370). -/
  | wrGicvEoir (init : Nat) (data : Word)
  /-- Read of the virtual CPU interface at 0x14 (R364). -/
  | rdGicvRpr (init : Nat)
  /-- Read of the virtual CPU interface at 0x18 (R367). -/
  | rdGicvHppir (init : Nat)
  /-- Read of the virtual CPU interface at 0x1C (R363). -/
  | rdGicvAbpr (init : Nat)
  /-- Write of the virtual CPU interface at 0x1C (R363). -/
  | wrGicvAbpr (init : Nat) (data : Word)
  /-- Read of the virtual interface control at 0x0 (R321). -/
  | rdGichHcr (init : Nat)
  /-- Write of the virtual interface control at 0x0 (R321). -/
  | wrGichHcr (init : Nat) (data : Word)
  /-- Read of the virtual interface control at 0x4 (R324). -/
  | rdGichVtr (init : Nat)
  /-- Read of the virtual interface control at 0x8 (R325). -/
  | rdGichVmcr (init : Nat)
  /-- Write of the virtual interface control at 0x8 (R326). -/
  | wrGichVmcr (init : Nat) (data : Word)
  /-- Read of the virtual interface control at 0xF0 (R330). -/
  | rdGichApr (init : Nat)
  /-- Write of the virtual interface control at 0xF0 (R330). -/
  | wrGichApr (init : Nat) (data : Word)
  /-- Read of the virtual interface control at 0x100..0x10C (R323). -/
  | rdGichLr (i : LrIx) (init : Nat)
  /-- Write of the virtual interface control at 0x100..0x10C (R322). -/
  | wrGichLr (i : LrIx) (init : Nat) (data : Word)
  /-- An input-line event at a port whose interrupt is level-triggered (R171). -/
  | lineLevel (port : Port) (value : Bool)
  /-- An input-line event at a port whose interrupt is edge-triggered (R172). -/
  | lineEdge (port : Port) (value : Bool)
  /-- Reset (R480). -/
  | reset
  /-- The catch-all row: a bus access that no register row takes (R86, R112). -/
  | accessError (key : BitVec 16) (n : Width) (init : Nat) (data : Word)
deriving DecidableEq, Repr

end Sys2Proof
end

