-- ==== Sys2Proof/Decode.lean ====
section
/-! DEFINITION. Decoding a request to the row of spec/opcode_table.json it selects (30_encoding.md R112), the register
maps R120 to R123 with the five access-error causes (20_memory.md R86, 60_exceptions.md R431), and the encoder. -/

namespace Sys2Proof

/-! ## The access key (R110) -/

/-- The number of an interface in the key's bits [15:14] (R110). -/
def Iface.code : Iface → Nat
  | .gicd => 0
  | .gicc => 1
  | .gich => 2
  | .gicv => 3

/-- The key's bit [13] (R110). -/
def Dir.code : Dir → Nat
  | .read => 0
  | .write => 1

/-- The interface a key names: bits [15:14] (R110). -/
def keyIface (key : BitVec 16) : Iface :=
  match key.toNat / 16384 with
  | 0 => .gicd
  | 1 => .gicc
  | 2 => .gich
  | _ => .gicv

/-- The direction of a key: bit [13] (R110). -/
def keyDir (key : BitVec 16) : Dir :=
  if key.toNat / 8192 % 2 = 1 then .write else .read

/-- The byte offset of a key: bits [12:0] (R110). -/
def keyOff (key : BitVec 16) : Nat := key.toNat % 8192

/-- The key of an access (R110). -/
def mkKey (w : Iface) (d : Dir) (off : Nat) : BitVec 16 :=
  BitVec.ofNat 16 (w.code * 16384 + d.code * 8192 + off)

/-- The size of a window in bytes (R80). -/
def Iface.windowSize : Iface → Nat
  | .gicd => 0x1000
  | .gicc => 0x2000
  | .gich => 0x1000
  | .gicv => 0x2000

/-- The base address of a window (R89), if the platform has said it. -/
def Params.windowBase (p : Params) : Iface → Option Nat
  | .gicd => p.bases.dist
  | .gicc => p.bases.cpu
  | .gich => p.bases.vifctrl
  | .gicv => p.bases.vcpu

/-- The system address of an offset of a window (R80, R89): "offsets are from the respective interface's base address".
`none` if the offset is outside the window or its base is OPEN. The bus decoding that turns an address into a window and
an offset is out of scope (R5; log 15), so no step reads this. -/
def Params.systemAddress (p : Params) (w : Iface) (off : Nat) : Option Nat :=
  if off < w.windowSize then (p.windowBase w).map (· + off) else none

/-- The `8n` bits of data an access of `n` bytes carries (R81). -/
def clip (n : Width) (data : Word) : Word :=
  match n with
  | .w1 => data &&& 0xff#32
  | .w2 => data &&& 0xffff#32
  | .w4 => data

/-- What an access with this key carries as data: the low `8n` bits of a write, nothing of a read (R81;
DEDUCED, safe: log 7). -/
def laneData (key : BitVec 16) (n : Width) (data : Word) : Word :=
  match keyDir key with
  | .read => 0#32
  | .write => clip n data

/-- A request with only the data its access carries (R81). -/
def Request.canonical : Request → Request
  | .bus key n init data => .bus key n init (laneData key n data)
  | .line port value => .line port value
  | .reset => .reset

/-! ## The opcode table -/

/-- One register row of spec/opcode_table.json: the key's mask and pattern, the offset range, the widths, and the
instruction the row stands for, built from the offset, the width, the initiator and the data. -/
structure Row where
  pattern : BitVec 16
  mask : BitVec 16
  lo : Nat
  hi : Nat
  widths : List Width
  build : Nat → Width → Nat → Word → Instr

/-- The four conditions of R112. -/
def Row.accepts (r : Row) (key : BitVec 16) (n : Width) : Bool :=
  (key &&& r.mask) == r.pattern && decide (r.lo ≤ keyOff key) && decide (keyOff key ≤ r.hi) &&
    r.widths.contains n && keyOff key % n.bytes == 0

/-- A row of a register that stands alone: its key is fixed, and it takes 4-byte accesses (R84). -/
def oneWord (pattern : BitVec 16) (off : Nat) (build : Nat → Word → Instr) : Row where
  pattern := pattern
  mask := 0xffff#16
  lo := off
  hi := off
  widths := [.w4]
  build := fun _ _ init data => build init data

/-- A row of a word array at `base`: 4-byte accesses, and the word index from the offset (R125, R127). -/
def wordArray (pattern : BitVec 16) (base lo hi : Nat) (build : Nat → Nat → Word → Instr) : Row where
  pattern := pattern
  mask := 0xe000#16
  lo := lo
  hi := hi
  widths := [.w4]
  build := fun off _ init data => build ((off - base) / 4) init data

/-- A row of a byte array at `base`: 1-, 2- and 4-byte accesses (R84, R126). -/
def byteArray (pattern : BitVec 16) (base lo hi : Nat) (build : Nat → Width → Nat → Word → Instr) : Row where
  pattern := pattern
  mask := 0xe000#16
  lo := lo
  hi := hi
  widths := [.w1, .w2, .w4]
  build := fun off n init data => build (off - base) n init data

/-- The rows of the distributor (R120), in the table's order. -/
def distributorRows : List Row :=
  [ oneWord 0x0000#16 0x000 (fun init _ => .rdGicdCtlr init),
    oneWord 0x2000#16 0x000 .wrGicdCtlr,
    oneWord 0x0004#16 0x004 (fun init _ => .rdGicdTyper init),
    oneWord 0x0100#16 0x100 (fun init _ => .rdGicdIsenabler0 init),
    oneWord 0x2100#16 0x100 .wrGicdIsenabler0,
    wordArray 0x0000#16 0x100 0x104 0x13c (fun word init _ => .rdGicdIsenablerSpi word init),
    wordArray 0x2000#16 0x100 0x104 0x13c .wrGicdIsenablerSpi,
    oneWord 0x0180#16 0x180 (fun init _ => .rdGicdIcenabler0 init),
    oneWord 0x2180#16 0x180 .wrGicdIcenabler0,
    wordArray 0x0000#16 0x180 0x184 0x1bc (fun word init _ => .rdGicdIcenablerSpi word init),
    wordArray 0x2000#16 0x180 0x184 0x1bc .wrGicdIcenablerSpi,
    oneWord 0x0200#16 0x200 (fun init _ => .rdGicdIspendr0 init),
    oneWord 0x2200#16 0x200 .wrGicdIspendr0,
    wordArray 0x0000#16 0x200 0x204 0x23c (fun word init _ => .rdGicdIspendrSpi word init),
    wordArray 0x2000#16 0x200 0x204 0x23c .wrGicdIspendrSpi,
    oneWord 0x0280#16 0x280 (fun init _ => .rdGicdIcpendr0 init),
    oneWord 0x2280#16 0x280 .wrGicdIcpendr0,
    wordArray 0x0000#16 0x280 0x284 0x2bc (fun word init _ => .rdGicdIcpendrSpi word init),
    wordArray 0x2000#16 0x280 0x284 0x2bc .wrGicdIcpendrSpi,
    oneWord 0x0300#16 0x300 (fun init _ => .rdGicdIsactiver0 init),
    wordArray 0x0000#16 0x300 0x304 0x33c (fun word init _ => .rdGicdIsactiverSpi word init),
    oneWord 0x0380#16 0x380 (fun init _ => .rdGicdIcactiver0 init),
    oneWord 0x2380#16 0x380 .wrGicdIcactiver0,
    wordArray 0x0000#16 0x380 0x384 0x3bc (fun word init _ => .rdGicdIcactiverSpi word init),
    wordArray 0x2000#16 0x380 0x384 0x3bc .wrGicdIcactiverSpi,
    byteArray 0x0000#16 0x400 0x400 0x41f (fun first n init _ => .rdGicdIpriorityrPriv first n init),
    byteArray 0x2000#16 0x400 0x400 0x41f .wrGicdIpriorityrPriv,
    byteArray 0x0000#16 0x400 0x420 0x5ff (fun first n init _ => .rdGicdIpriorityrSpi first n init),
    byteArray 0x2000#16 0x400 0x420 0x5ff .wrGicdIpriorityrSpi,
    byteArray 0x0000#16 0x800 0x800 0x81f (fun first n init _ => .rdGicdItargetsrPriv first n init),
    byteArray 0x0000#16 0x800 0x820 0x9ff (fun first n init _ => .rdGicdItargetsrSpi first n init),
    byteArray 0x2000#16 0x800 0x820 0x9ff .wrGicdItargetsrSpi,
    oneWord 0x0c00#16 0xc00 (fun init _ => .rdGicdIcfgr0 init),
    oneWord 0x0c04#16 0xc04 (fun init _ => .rdGicdIcfgr1 init),
    oneWord 0x2c04#16 0xc04 .wrGicdIcfgr1,
    wordArray 0x0000#16 0xc00 0xc08 0xc7c (fun word init _ => .rdGicdIcfgrSpi word init),
    wordArray 0x2000#16 0xc00 0xc08 0xc7c .wrGicdIcfgrSpi,
    oneWord 0x2f00#16 0xf00 .wrGicdSgir,
    byteArray 0x0000#16 0xf10 0xf10 0xf1f (fun first n init _ => .rdGicdCpendsgir first n init),
    byteArray 0x2000#16 0xf10 0xf10 0xf1f .wrGicdCpendsgir,
    byteArray 0x0000#16 0xf20 0xf20 0xf2f (fun first n init _ => .rdGicdSpendsgir first n init),
    byteArray 0x2000#16 0xf20 0xf20 0xf2f .wrGicdSpendsgir ]

/-- The rows of the CPU interface (R121), in the table's order. -/
def cpuRows : List Row :=
  [ oneWord 0x4000#16 0x000 (fun init _ => .rdGiccCtlr init),
    oneWord 0x6000#16 0x000 .wrGiccCtlr,
    oneWord 0x4004#16 0x004 (fun init _ => .rdGiccPmr init),
    oneWord 0x6004#16 0x004 .wrGiccPmr,
    oneWord 0x4008#16 0x008 (fun init _ => .rdGiccBpr init),
    oneWord 0x6008#16 0x008 .wrGiccBpr,
    oneWord 0x400c#16 0x00c (fun init _ => .rdGiccIar init),
    oneWord 0x6010#16 0x010 .wrGiccEoir,
    oneWord 0x4014#16 0x014 (fun init _ => .rdGiccRpr init),
    oneWord 0x4018#16 0x018 (fun init _ => .rdGiccHppir init),
    oneWord 0x401c#16 0x01c (fun init _ => .rdGiccAbpr init),
    oneWord 0x601c#16 0x01c .wrGiccAbpr ]

/-- The rows of the virtual CPU interface (R123), in the table's order. -/
def vcpuRows : List Row :=
  [ oneWord 0xc000#16 0x000 (fun init _ => .rdGicvCtlr init),
    oneWord 0xe000#16 0x000 .wrGicvCtlr,
    oneWord 0xc004#16 0x004 (fun init _ => .rdGicvPmr init),
    oneWord 0xe004#16 0x004 .wrGicvPmr,
    oneWord 0xc008#16 0x008 (fun init _ => .rdGicvBpr init),
    oneWord 0xe008#16 0x008 .wrGicvBpr,
    oneWord 0xc00c#16 0x00c (fun init _ => .rdGicvIar init),
    oneWord 0xe010#16 0x010 .wrGicvEoir,
    oneWord 0xc014#16 0x014 (fun init _ => .rdGicvRpr init),
    oneWord 0xc018#16 0x018 (fun init _ => .rdGicvHppir init),
    oneWord 0xc01c#16 0x01c (fun init _ => .rdGicvAbpr init),
    oneWord 0xe01c#16 0x01c .wrGicvAbpr ]

/-- The rows of the virtual interface control (R122), in the table's order. -/
def vifctrlRows : List Row :=
  [ oneWord 0x8000#16 0x000 (fun init _ => .rdGichHcr init),
    oneWord 0xa000#16 0x000 .wrGichHcr,
    oneWord 0x8004#16 0x004 (fun init _ => .rdGichVtr init),
    oneWord 0x8008#16 0x008 (fun init _ => .rdGichVmcr init),
    oneWord 0xa008#16 0x008 .wrGichVmcr,
    oneWord 0x80f0#16 0x0f0 (fun init _ => .rdGichApr init),
    oneWord 0xa0f0#16 0x0f0 .wrGichApr,
    wordArray 0x8000#16 0x100 0x100 0x10c (fun word init _ => .rdGichLr (Fin.ofNat 4 word) init),
    wordArray 0xa000#16 0x100 0x100 0x10c (fun word init data => .wrGichLr (Fin.ofNat 4 word) init data) ]

/-- The register rows of spec/opcode_table.json, in its order (R112). -/
def rows : List Row := distributorRows ++ cpuRows ++ vcpuRows ++ vifctrlRows

/-- The first register row that takes the access, if one does (R112). -/
def selectRow (key : BitVec 16) (n : Width) : Option Row := rows.find? (fun r => r.accepts key n)

/-- Decoding a bus access: the first row that takes it, or the catch-all ACCESS_ERROR (R112). -/
def decodeBus (key : BitVec 16) (n : Width) (init : Nat) (data : Word) : Instr :=
  match selectRow key n with
  | some r => r.build (keyOff key) n init (laneData key n data)
  | none => .accessError key n init (laneData key n data)

/-! ## Line events -/

/-- The interrupt ID a port drives (R170). -/
def Port.irq : Port → Nat
  | .ppi _ k => 16 + k.val
  | .spi s => 32 + s.val

/-- The port exists in a block with these parameters (R170). -/
def Port.present (p : Params) : Port → Bool
  | .ppi c _ => decide (c.val < p.numCpu)
  | .spi s => decide (s.val < p.numSpi)

/-- Why a request decodes to no instruction. -/
inductive DecodeError where
  /-- A line event for an input that the block does not have (R170, R434). -/
  | noSuchInput (port : Port)
deriving DecidableEq, Repr

/-- Decoding (R112, R170): a bus access always selects a row; a line event selects R171 or R172 by the trigger mode in
force when it is delivered; an event for an absent input is refused by name. -/
def decode (p : Params) (trig : Nat → Trigger) : Request → Except DecodeError Instr
  | .bus key n init data => .ok (decodeBus key n init data)
  | .line port value =>
    if port.present p then
      match trig port.irq with
      | .level => .ok (.lineLevel port value)
      | .edge => .ok (.lineEdge port value)
    else .error (.noSuchInput port)
  | .reset => .ok .reset

/-! ## The register maps and the access-error causes -/

/-- One line of the register maps R120 to R123: a register, or an array of registers with the same rights. -/
structure MapLine where
  iface : Iface
  lo : Nat
  /-- The last byte of the register or array. -/
  last : Nat
  readable : Bool
  writable : Bool
  /-- A byte-array register, which takes 1- and 2-byte accesses too (R84). -/
  bytewise : Bool

/-- The distributor's map (R120). -/
def distributorMap : List MapLine :=
  [ ⟨.gicd, 0x000, 0x003, true, true, false⟩,    -- CTLR
    ⟨.gicd, 0x004, 0x007, true, false, false⟩,   -- TYPER
    ⟨.gicd, 0x100, 0x13f, true, true, false⟩,    -- ISENABLER
    ⟨.gicd, 0x180, 0x1bf, true, true, false⟩,    -- ICENABLER
    ⟨.gicd, 0x200, 0x23f, true, true, false⟩,    -- ISPENDR
    ⟨.gicd, 0x280, 0x2bf, true, true, false⟩,    -- ICPENDR
    ⟨.gicd, 0x300, 0x33f, true, false, false⟩,   -- ISACTIVER
    ⟨.gicd, 0x380, 0x3bf, true, true, false⟩,    -- ICACTIVER
    ⟨.gicd, 0x400, 0x5ff, true, true, true⟩,     -- IPRIORITYR
    ⟨.gicd, 0x800, 0x81f, true, false, true⟩,    -- ITARGETSR of SGIs and PPIs
    ⟨.gicd, 0x820, 0x9ff, true, true, true⟩,     -- ITARGETSR of SPIs
    ⟨.gicd, 0xc00, 0xc03, true, false, false⟩,   -- ICFGR0
    ⟨.gicd, 0xc04, 0xc7f, true, true, false⟩,    -- ICFGR1..31
    ⟨.gicd, 0xf00, 0xf03, false, true, false⟩,   -- SGIR
    ⟨.gicd, 0xf10, 0xf1f, true, true, true⟩,     -- CPENDSGIR
    ⟨.gicd, 0xf20, 0xf2f, true, true, true⟩ ]    -- SPENDSGIR

/-- The map of the CPU interface (R121), which the virtual CPU interface mirrors (R123). -/
def cpuMap (w : Iface) : List MapLine :=
  [ ⟨w, 0x00, 0x0b, true, true, false⟩,    -- CTLR, PMR, BPR
    ⟨w, 0x0c, 0x0f, true, false, false⟩,   -- IAR
    ⟨w, 0x10, 0x13, false, true, false⟩,   -- EOIR
    ⟨w, 0x14, 0x1b, true, false, false⟩,   -- RPR, HPPIR
    ⟨w, 0x1c, 0x1f, true, true, false⟩ ]   -- ABPR

/-- The map of the virtual interface control (R122). -/
def vifctrlMap : List MapLine :=
  [ ⟨.gich, 0x000, 0x003, true, true, false⟩,    -- HCR
    ⟨.gich, 0x004, 0x007, true, false, false⟩,   -- VTR
    ⟨.gich, 0x008, 0x00b, true, true, false⟩,    -- VMCR
    ⟨.gich, 0x0f0, 0x0f3, true, true, false⟩,    -- APR
    ⟨.gich, 0x100, 0x10f, true, true, false⟩ ]   -- LR0..3

/-- The register maps R120 to R123. Every other offset is reserved (R145). -/
def registerMap : List MapLine := distributorMap ++ cpuMap .gicc ++ vifctrlMap ++ cpuMap .gicv

/-- The map line whose register holds the byte at an offset of a window, if one does: every byte of a 32-bit register
is covered (DESIGN CHOICE, safe: log 8). -/
def mapLineAt (w : Iface) (off : Nat) : Option MapLine :=
  registerMap.find? (fun l => decide (l.iface = w) && decide (l.lo ≤ off) && decide (off ≤ l.last))

/-- The cause of an access error, if the access is one: the five conditions of R86 in the precedence of R431. -/
def accessErrorCause (key : BitVec 16) (n : Width) : Option AccessErrorCode :=
  match mapLineAt (keyIface key) (keyOff key) with
  | none => some .unmapped
  | some l =>
    if keyDir key = .write ∧ l.writable = false then some .writeRo
    else if keyDir key = .read ∧ l.readable = false then some .readWo
    else if n ≠ .w4 ∧ l.bytewise = false then some .width
    else if keyOff key % n.bytes ≠ 0 then some .misaligned
    else none

/-! ## The encoder -/

/-- A read of window `w` at `off`. -/
def rd (w : Iface) (off : Nat) (n : Width) (init : Nat) : Request := .bus (mkKey w .read off) n init 0#32

/-- A write of window `w` at `off`. -/
def wr (w : Iface) (off : Nat) (n : Width) (init : Nat) (data : Word) : Request :=
  .bus (mkKey w .write off) n init data

/-- The request that encodes an instruction (R110, R111, with the offsets of R120 to R123). -/
def encode : Instr → Request
  | .rdGicdCtlr init => rd .gicd 0x000 .w4 init
  | .wrGicdCtlr init data => wr .gicd 0x000 .w4 init data
  | .rdGicdTyper init => rd .gicd 0x004 .w4 init
  | .rdGicdIsenabler0 init => rd .gicd 0x100 .w4 init
  | .wrGicdIsenabler0 init data => wr .gicd 0x100 .w4 init data
  | .rdGicdIsenablerSpi word init => rd .gicd (0x100 + 4 * word) .w4 init
  | .wrGicdIsenablerSpi word init data => wr .gicd (0x100 + 4 * word) .w4 init data
  | .rdGicdIcenabler0 init => rd .gicd 0x180 .w4 init
  | .wrGicdIcenabler0 init data => wr .gicd 0x180 .w4 init data
  | .rdGicdIcenablerSpi word init => rd .gicd (0x180 + 4 * word) .w4 init
  | .wrGicdIcenablerSpi word init data => wr .gicd (0x180 + 4 * word) .w4 init data
  | .rdGicdIspendr0 init => rd .gicd 0x200 .w4 init
  | .wrGicdIspendr0 init data => wr .gicd 0x200 .w4 init data
  | .rdGicdIspendrSpi word init => rd .gicd (0x200 + 4 * word) .w4 init
  | .wrGicdIspendrSpi word init data => wr .gicd (0x200 + 4 * word) .w4 init data
  | .rdGicdIcpendr0 init => rd .gicd 0x280 .w4 init
  | .wrGicdIcpendr0 init data => wr .gicd 0x280 .w4 init data
  | .rdGicdIcpendrSpi word init => rd .gicd (0x280 + 4 * word) .w4 init
  | .wrGicdIcpendrSpi word init data => wr .gicd (0x280 + 4 * word) .w4 init data
  | .rdGicdIsactiver0 init => rd .gicd 0x300 .w4 init
  | .rdGicdIsactiverSpi word init => rd .gicd (0x300 + 4 * word) .w4 init
  | .rdGicdIcactiver0 init => rd .gicd 0x380 .w4 init
  | .wrGicdIcactiver0 init data => wr .gicd 0x380 .w4 init data
  | .rdGicdIcactiverSpi word init => rd .gicd (0x380 + 4 * word) .w4 init
  | .wrGicdIcactiverSpi word init data => wr .gicd (0x380 + 4 * word) .w4 init data
  | .rdGicdIpriorityrPriv first n init => rd .gicd (0x400 + first) n init
  | .wrGicdIpriorityrPriv first n init data => wr .gicd (0x400 + first) n init data
  | .rdGicdIpriorityrSpi first n init => rd .gicd (0x400 + first) n init
  | .wrGicdIpriorityrSpi first n init data => wr .gicd (0x400 + first) n init data
  | .rdGicdItargetsrPriv first n init => rd .gicd (0x800 + first) n init
  | .rdGicdItargetsrSpi first n init => rd .gicd (0x800 + first) n init
  | .wrGicdItargetsrSpi first n init data => wr .gicd (0x800 + first) n init data
  | .rdGicdIcfgr0 init => rd .gicd 0xc00 .w4 init
  | .rdGicdIcfgr1 init => rd .gicd 0xc04 .w4 init
  | .wrGicdIcfgr1 init data => wr .gicd 0xc04 .w4 init data
  | .rdGicdIcfgrSpi word init => rd .gicd (0xc00 + 4 * word) .w4 init
  | .wrGicdIcfgrSpi word init data => wr .gicd (0xc00 + 4 * word) .w4 init data
  | .wrGicdSgir init data => wr .gicd 0xf00 .w4 init data
  | .rdGicdCpendsgir first n init => rd .gicd (0xf10 + first) n init
  | .wrGicdCpendsgir first n init data => wr .gicd (0xf10 + first) n init data
  | .rdGicdSpendsgir first n init => rd .gicd (0xf20 + first) n init
  | .wrGicdSpendsgir first n init data => wr .gicd (0xf20 + first) n init data
  | .rdGiccCtlr init => rd .gicc 0x000 .w4 init
  | .wrGiccCtlr init data => wr .gicc 0x000 .w4 init data
  | .rdGiccPmr init => rd .gicc 0x004 .w4 init
  | .wrGiccPmr init data => wr .gicc 0x004 .w4 init data
  | .rdGiccBpr init => rd .gicc 0x008 .w4 init
  | .wrGiccBpr init data => wr .gicc 0x008 .w4 init data
  | .rdGiccIar init => rd .gicc 0x00c .w4 init
  | .wrGiccEoir init data => wr .gicc 0x010 .w4 init data
  | .rdGiccRpr init => rd .gicc 0x014 .w4 init
  | .rdGiccHppir init => rd .gicc 0x018 .w4 init
  | .rdGiccAbpr init => rd .gicc 0x01c .w4 init
  | .wrGiccAbpr init data => wr .gicc 0x01c .w4 init data
  | .rdGicvCtlr init => rd .gicv 0x000 .w4 init
  | .wrGicvCtlr init data => wr .gicv 0x000 .w4 init data
  | .rdGicvPmr init => rd .gicv 0x004 .w4 init
  | .wrGicvPmr init data => wr .gicv 0x004 .w4 init data
  | .rdGicvBpr init => rd .gicv 0x008 .w4 init
  | .wrGicvBpr init data => wr .gicv 0x008 .w4 init data
  | .rdGicvIar init => rd .gicv 0x00c .w4 init
  | .wrGicvEoir init data => wr .gicv 0x010 .w4 init data
  | .rdGicvRpr init => rd .gicv 0x014 .w4 init
  | .rdGicvHppir init => rd .gicv 0x018 .w4 init
  | .rdGicvAbpr init => rd .gicv 0x01c .w4 init
  | .wrGicvAbpr init data => wr .gicv 0x01c .w4 init data
  | .rdGichHcr init => rd .gich 0x000 .w4 init
  | .wrGichHcr init data => wr .gich 0x000 .w4 init data
  | .rdGichVtr init => rd .gich 0x004 .w4 init
  | .rdGichVmcr init => rd .gich 0x008 .w4 init
  | .wrGichVmcr init data => wr .gich 0x008 .w4 init data
  | .rdGichApr init => rd .gich 0x0f0 .w4 init
  | .wrGichApr init data => wr .gich 0x0f0 .w4 init data
  | .rdGichLr i init => rd .gich (0x100 + 4 * i.val) .w4 init
  | .wrGichLr i init data => wr .gich (0x100 + 4 * i.val) .w4 init data
  | .lineLevel port value => .line port value
  | .lineEdge port value => .line port value
  | .reset => .reset
  | .accessError key n init data => .bus key n init data

/-! ## Bare table words -/

/-- The widest width at which an offset is aligned. -/
def widestWidth (off : Nat) : Width :=
  if off % 4 = 0 then .w4 else if off % 2 = 0 then .w2 else .w1

/-- The request a bare word of spec/opcode_table.json stands for: its low 16 bits are the access key, and everything
the table gives no bits is zero (CPU 0, data 0), at the widest width the offset is aligned for (DESIGN CHOICE, safe:
log 4). -/
def requestOfTableWord (w : Nat) : Request :=
  let key := BitVec.ofNat 16 w
  .bus key (widestWidth (keyOff key)) 0 0#32

/-- The instruction the decoder reads from a bare table word of at most 16 bits. -/
def decodeTableWord (nbits w : Nat) : Option Instr :=
  if nbits ≤ 16 then
    match decode Params.standard (fun _ => .level) (requestOfTableWord w) with
    | .ok i => some i
    | .error _ => none
  else none

end Sys2Proof
end

