-- ==== Sys2Proof/Machine/State.lean ====
section
/-! DEFINITION. The state of the block (10_state.md R30 to R47), the model's own fields beside it, the ways a step can
stop, and the state after reset (70_reset_and_hazards.md R480). -/

namespace Sys2Proof.Machine

/-- The interrupt state store: five CPU masks per ID (R31) and the trigger modes of IDs 16..511 (R32; the trigger of
an SGI is hard-wired EDGE, so it has no storage, and so has S.model). `trigger` holds ID `irq` at `irq - 16`. -/
structure Store where
  enabled : Vector CpuMask 512
  pending : Vector CpuMask 512
  active : Vector CpuMask 512
  level : Vector CpuMask 512
  signaled : Vector CpuMask 512
  trigger : Vector Trigger 496
deriving DecidableEq, Repr

/-- The CPU interface of one CPU (R41, R42), less the arbiter's results. -/
structure CpuIf where
  /-- `cctlr` (R41). -/
  ctlr : BitVec 2
  pmr : Prio
  bpr : BitVec 3
  abpr : BitVec 3
  rpr : Prio
  /-- The preemption stack, innermost first (R42). -/
  stk : List Irq
deriving DecidableEq, Repr

/-- A list register (R44). -/
structure ListReg where
  pending : Bool
  active : Bool
  hw : Bool
  prio : Prio
  virtualId : BitVec 10
  physicalId : BitVec 10
  cpuId : BitVec 3
  raw : Word
deriving DecidableEq, Repr

/-- The virtual interface control and virtual CPU interface of one CPU (R44, R45, R46), less the arbiter's results. -/
structure VirtIf where
  lr : Vector ListReg 4
  hcr : BitVec 1
  apr : Word
  /-- `vctlr` (R46). -/
  ctlr : BitVec 2
  /-- `vpmr` (R46). -/
  pmr : Prio
  /-- `vbpr` (R46). -/
  bpr : BitVec 3
  /-- `vabpr` (R46). -/
  abpr : BitVec 3
  /-- `vrpr` (R46). -/
  rpr : Prio
deriving DecidableEq, Repr

/-- What the arbitration pass writes for one CPU (R409): `hppir` (R41; `none` is SPURIOUS_IRQ), `irq_out` (R43),
`vhppir` (R46; `none` is NONE) and `virq_out` (R47). -/
structure ArbOut where
  hppir : Option Irq
  irqOut : Bool
  vhppir : Option LrIx
  virqOut : Bool
deriving DecidableEq, Repr

/-- The response that ends a bus access (R81): OK with data, of which an `n`-byte read carries the low `8n` bits, OK,
or ERROR. -/
inductive Response where
  | okData (v : Word)
  | ok
  | error
deriving DecidableEq, Repr

/-- A diagnostic record (R18, R430 to R433). No rule reads one. -/
inductive Diag where
  /-- An access from an unmapped CPU, performed as CPU 0 (R462). -/
  | accessFromUnmappedCpu (init : Nat)
  /-- An access error, with its cause (R431). -/
  | accessError (code : AccessErrorCode)
  /-- An EOI of an ID ≥ NIRQ (R280). -/
  | eoiOutOfRange
  /-- An EOI with an empty preemption stack (R280). -/
  | eoiNoActive
  /-- An EOI of an ID that is not on the preemption stack (R283). -/
  | eoiNotOnStack
  /-- An SGIR write with filter value 3 (R231). -/
  | unrecognizedSgiFilter
  /-- A pending SGI without a source (R275). -/
  | sgiSourceOverflow
  /-- A list-register lookup miss (R331). -/
  | lrLookupMiss
  /-- A virtual EOI of an ID ≥ NIRQ (R370). -/
  | virtualEoiOutOfRange
  /-- A virtual EOI of a hardware-backed entry with a bad physical ID (R372). -/
  | badLrPhysicalId
  /-- A store operation called with an ID ≥ NIRQ (R164); no rule makes such a call. -/
  | storeIdOutOfRange (irq : Nat)
deriving DecidableEq, Repr

/-- What the last step gave the outside besides the output lines: its bus response, if it was an access, and its
diagnostics. The model's own field: no rule reads it. -/
structure StepOut where
  resp : Option Response
  diag : List Diag
deriving DecidableEq, Repr

/-- The block. -/
structure State where
  /-- The parameters the block was elaborated with (R9 to R11); no step changes them. The model's own
  field (DESIGN CHOICE, safe: log 3). -/
  params : Params
  /-- The interrupt state store (R31, R32). -/
  store : Store
  /-- `sgi_src[c][s]` (R36). -/
  sgiSrc : Vector (Vector CpuMask 16) 8
  /-- `dctlr` (R37). -/
  dctlr : BitVec 2
  /-- `prio_priv[c][irq]` (R38). -/
  prioPriv : Vector (Vector Prio 32) 8
  /-- `prio_spi[irq - 32]` (R38). -/
  prioSpi : Vector Prio 480
  /-- `itargets[irq - 32]` (R39). -/
  itargets : Vector CpuMask 480
  /-- The CPU interfaces (R41, R42). -/
  cpu : Vector CpuIf 8
  /-- The virtual interfaces (R44 to R46). -/
  virt : Vector VirtIf 8
  /-- The arbiter's results (R41, R43, R46, R47). -/
  arb : Vector ArbOut 8
  /-- The requests delivered to the block and not yet performed, oldest first. The model's own field
  (DESIGN CHOICE, unsafe: log 1). -/
  inbox : List Request
  /-- The outcome of the last step. The model's own field (DESIGN CHOICE, unsafe: log 2). -/
  out : StepOut
deriving DecidableEq, Repr

/-- Why the machine stops with a fault. -/
inductive Fault where
  /-- Raised by `construct` alone, never by a step: elaboration failed, so no block exists (R435). Safe: the spec
  itself says that no step runs on such a block. -/
  | configuration (e : ConfigError)
deriving DecidableEq, Repr

/-- Why a request has no meaning. -/
inductive Refusal where
  /-- Raised by an arm of `exec` whose instruction has no meaning yet. Safe: nothing is claimed of it. No arm is. -/
  | notModelled (mnemonic : String)
  /-- Raised by `step` for a line event of an input the block does not have, which cannot be delivered (R170, R434).
  Safe: the hardware has no such event. -/
  | noSuchInput (port : Port)
deriving DecidableEq, Repr

/-- The reset value of the store (R31, R32). -/
def Store.reset : Store where
  enabled := Vector.replicate 512 0#8
  pending := Vector.replicate 512 0#8
  active := Vector.replicate 512 0#8
  level := Vector.replicate 512 0#8
  signaled := Vector.replicate 512 0#8
  trigger := Vector.replicate 496 .level

/-- The reset value of a CPU interface (R41, R42). The spec gives bpr and abpr from general knowledge (UNVERIFIED,
unsafe: log 16). -/
def CpuIf.reset : CpuIf where
  ctlr := 0#2
  pmr := 0x00#8
  bpr := 2#3
  abpr := 3#3
  rpr := idlePrio
  stk := []

/-- The reset value of a list register (R44). -/
def ListReg.reset : ListReg where
  pending := false
  active := false
  hw := false
  prio := 0#8
  virtualId := 0#10
  physicalId := 0#10
  cpuId := 0#3
  raw := 0#32

/-- The reset value of a virtual interface (R44, R45, R46). The spec gives bpr and abpr from general knowledge
(UNVERIFIED, unsafe: log 16). -/
def VirtIf.reset : VirtIf where
  lr := Vector.replicate 4 ListReg.reset
  hcr := 0#1
  apr := 0#32
  ctlr := 0#2
  pmr := 0x00#8
  bpr := 2#3
  abpr := 3#3
  rpr := idlePrio

/-- The reset value of the arbiter's results (R41, R43, R46, R47). -/
def ArbOut.reset : ArbOut where
  hppir := none
  irqOut := false
  vhppir := none
  virqOut := false

/-- The reset value of every piece of state (R480), for a block with parameters `p`; nothing has been delivered. -/
def State.resetWith (p : Params) : State where
  params := p
  store := Store.reset
  sgiSrc := Vector.replicate 8 (Vector.replicate 16 0#8)
  dctlr := 0#2
  prioPriv := Vector.replicate 8 (Vector.replicate 32 0x00#8)
  prioSpi := Vector.replicate 480 0x00#8
  itargets := Vector.replicate 480 0x00#8
  cpu := Vector.replicate 8 CpuIf.reset
  virt := Vector.replicate 8 VirtIf.reset
  arb := Vector.replicate 8 ArbOut.reset
  inbox := []
  out := { resp := none, diag := [] }

/-- The block right after reset, with the default parameters of R9 to R11. The UPDATE that ends the reset step leaves
these very values (R480). -/
def State.reset : State := State.resetWith Params.standard

end Sys2Proof.Machine
end

