-- ==== Sys2Proof/Machine/Operands.lean ====
section
/-! DEFINITION. Operand assembly: masks, bit scans, byte lanes, and every register layout of 30_encoding.md. -/

namespace Sys2Proof.Machine

/-! ## Masks and bit scans -/

/-- `bit(i)` as a CPU mask (R12). -/
def bit (i : Nat) : CpuMask := 1#8 <<< i

/-- `lowest_set(m)` (R14); no rule applies it to 0. -/
def lowestSet {w : Nat} (m : BitVec w) : Nat := ((List.range w).find? (fun i => m.getLsbD i)).getD 0

/-- `highest_set(m)` (R14); no rule applies it to 0. -/
def highestSet {w : Nat} (m : BitVec w) : Nat := ((List.range w).reverse.find? (fun i => m.getLsbD i)).getD 0

/-- The routing models (R32). -/
inductive RoutingModel where
  | nToN
  | nTo1
deriving DecidableEq, Repr

/-- `S.model[irq]` (R32), which is fixed: N_N for SGIs and PPIs, N_1 for SPIs. -/
def modelOf (irq : Nat) : RoutingModel := if irq < nPriv then .nToN else .nTo1

/-- `mask_for(irq, c)` (R33). -/
def maskFor (irq : Nat) (c : Cpu) : CpuMask :=
  match modelOf irq with
  | .nToN => bit c.val
  | .nTo1 => allCpus

/-! ## Lanes (R83, R125, R126, R127) -/

/-- The word whose bit `b` is `f b` (R125). -/
def packBits (f : Nat → Bool) : Word := BitVec.ofFnLE (fun b : Fin 32 => f b.val)

/-- The data of an `n`-byte read whose byte `k` is `f k` (R83); the bytes it does not carry are 0 (DESIGN CHOICE, safe:
log 10). -/
def packBytes (n : Width) (f : Nat → Byte) : Word :=
  (List.range n.bytes).foldl (fun w k => w ||| ((f k).setWidth 32 <<< (8 * k))) 0#32

/-- Byte `k` of the data of a write (R83). -/
def byteOf (data : Word) (k : Nat) : Byte := data.extractLsb' (8 * k) 8

/-- Do `f b` for `b` in 0..31 where `data[b] = 1`, in that order (R202). -/
def forSetBits {σ : Type} (data : Word) (f : Nat → σ → σ) (x : σ) : σ :=
  (List.range 32).foldl (fun x b => if data.getLsbD b then f b x else x) x

/-- Do `f k` for each byte `k` of an `n`-byte access, in order (R225). -/
def forBytes {σ : Type} (n : Width) (f : Nat → σ → σ) (x : σ) : σ :=
  (List.range n.bytes).foldl (fun x k => f k x) x

/-- The two-bit field of ID 16w + k in an ICFGR word (R127). -/
def icfgrField (data : Word) (k : Nat) : BitVec 2 := data.extractLsb' (2 * k) 2

/-- The trigger mode a written ICFGR field selects: 0b10 is EDGE, anything else LEVEL (R127). -/
def triggerOfField (f : BitVec 2) : Trigger := if f = 2#2 then .edge else .level

/-! ## GICD_SGIR (R128, R230) -/

def sgirFilter (data : Word) : BitVec 2 := data.extractLsb' 24 2

def sgirList (data : Word) : CpuMask := data.extractLsb' 16 8

def sgirSgi (data : Word) : Nat := (data.extractLsb' 0 4).toNat

/-- The target set T of R230 for a write by CPU `c`; none for the unrecognized filter 3. -/
def sgirTargets (p : Params) (c : Cpu) (data : Word) : Option CpuMask :=
  match (sgirFilter data).toNat with
  | 0 => some (sgirList data &&& p.connected)
  | 1 => some (p.connected &&& ~~~(bit c.val))
  | 2 => some (bit c.val)
  | _ => none

/-! ## The interrupt-ID word (R129) -/

/-- An interrupt-ID word: INTID in [9:0], the source CPU in [12:10]. -/
def intidWord (id src : Nat) : Word := BitVec.ofNat 32 id ||| (BitVec.ofNat 32 src <<< 10)

/-- INTID of an EOIR write: data[9:0]. -/
def eoirId (data : Word) : Nat := (data.extractLsb' 0 10).toNat

/-! ## Read-only words -/

/-- GICD_TYPER (R130). -/
def typerWord (p : Params) : Word :=
  BitVec.ofNat 32 ((p.nimpl + 31) / 32 - 1) ||| (BitVec.ofNat 32 (p.numCpu - 1) <<< 5)

/-- GICH_VTR (R139): NLR - 1. -/
def vtrWord : Word := 0x00000003#32

/-! ## List registers (R135 to R137, R322, R323, R368) -/

/-- The list register a write of `data` leaves (R322). -/
def listRegOfWord (data : Word) : ListReg where
  pending := data.getLsbD 28
  active := data.getLsbD 29
  hw := data.getLsbD 31
  prio := (data.extractLsb' 23 5).setWidth 8 <<< 3
  virtualId := data.extractLsb' 0 10
  physicalId := if data.getLsbD 31 then data.extractLsb' 10 10 else 0#10
  cpuId := if data.getLsbD 31 then 0#3 else data.extractLsb' 10 3
  raw := data

/-- What a list register reads as: the written word with the live state bits (R323). -/
def listRegWord (e : ListReg) : Word :=
  (e.raw &&& ~~~0x30000000#32) ||| ((BitVec.ofBool e.active).setWidth 32 <<< 29) |||
    ((BitVec.ofBool e.pending).setWidth 32 <<< 28)

/-- `vid_word(e)` (R368). -/
def vidWord (e : ListReg) : Word :=
  if e.hw = false ∧ e.virtualId.toNat < nSgi then intidWord e.virtualId.toNat e.cpuId.toNat
  else intidWord e.virtualId.toNat 0

/-! ## GICH_VMCR (R138, R325, R326) -/

/-- What GICH_VMCR reads (R325). -/
def vmcrWord (v : VirtIf) : Word :=
  ((v.pmr.extractLsb' 3 5).setWidth 32 <<< 27) ||| (v.bpr.setWidth 32 <<< 21) ||| (v.abpr.setWidth 32 <<< 18) |||
    v.ctlr.setWidth 32

/-- The virtual CPU interface after a GICH_VMCR write (R326). -/
def VirtIf.withVmcr (v : VirtIf) (data : Word) : VirtIf :=
  { v with
    pmr := (data.extractLsb' 27 5).setWidth 8 <<< 3
    bpr := data.extractLsb' 21 3
    abpr := data.extractLsb' 18 3
    ctlr := data.extractLsb' 0 2 }

/-! ## Preemption levels (R137, R140, R333) -/

/-- VPRIO_SHIFT (R11). -/
def vprioShift : Nat := 3

/-- The preemption level of a list-register priority (R137). -/
def prioLevel (p : Prio) : Nat := p.toNat >>> vprioShift

/-- The active-priority bit APR_SELECT names in a nonzero `a` (R333, R370). -/
def aprBit (sel : AprSelect) (a : Word) : Nat :=
  match sel with
  | .msb => highestSet a
  | .lsb => lowestSet a

/-- `apr_prio(a)` (R333). -/
def aprPrio (sel : AprSelect) (a : Word) : Prio :=
  if a = 0#32 then idlePrio else BitVec.ofNat 8 (aprBit sel a <<< vprioShift)

/-- `apr` with the bit APR_SELECT names cleared, if there is one (R370). -/
def aprPop (sel : AprSelect) (a : Word) : Word :=
  if a = 0#32 then a else a &&& ~~~(1#32 <<< aprBit sel a)

end Sys2Proof.Machine
end

