-- ==== Sys2Proof/Machine/Flags.lean ====
section
/-! DEFINITION. The interrupt state store's operations (40_state_store.md R160 to R164) and DEACTIVATE
(42_cpu_interface.md R284). The per-IRQ bits are the only flags of the block (10_state.md R50). -/

namespace Sys2Proof.Machine

/-- The mask of one ID; 0 for an ID out of range, so that its predicates are false (R164). -/
def maskAt (t : Vector CpuMask 512) (irq : Nat) : CpuMask := t[irq]?.getD 0#8

/-- `SET_X` on one of the five mask tables (R161); an ID out of range changes nothing (R164). -/
def setMask (t : Vector CpuMask 512) (irq : Nat) (v : Bool) (m : CpuMask) : Vector CpuMask 512 :=
  t.setIfInBounds irq (if v then maskAt t irq ||| m else maskAt t irq &&& ~~~m)

/-- `IS_X` on one of the five mask tables (R162). -/
def testMask (t : Vector CpuMask 512) (irq : Nat) (m : CpuMask) : Bool := maskAt t irq &&& m != 0#8

/-- `SET_ENABLED` (R161). -/
def Store.setEnabled (st : Store) (irq : Nat) (v : Bool) (m : CpuMask) : Store :=
  { st with enabled := setMask st.enabled irq v m }

/-- `SET_PENDING` (R161). -/
def Store.setPending (st : Store) (irq : Nat) (v : Bool) (m : CpuMask) : Store :=
  { st with pending := setMask st.pending irq v m }

/-- `SET_ACTIVE` (R161). -/
def Store.setActive (st : Store) (irq : Nat) (v : Bool) (m : CpuMask) : Store :=
  { st with active := setMask st.active irq v m }

/-- `SET_LEVEL` (R161). -/
def Store.setLevel (st : Store) (irq : Nat) (v : Bool) (m : CpuMask) : Store :=
  { st with level := setMask st.level irq v m }

/-- `SET_SIGNALED` (R161). -/
def Store.setSignaled (st : Store) (irq : Nat) (v : Bool) (m : CpuMask) : Store :=
  { st with signaled := setMask st.signaled irq v m }

/-- `ENABLE` (R161). -/
def Store.enable (st : Store) (irq : Nat) (m : CpuMask) : Store := st.setEnabled irq true m

/-- `DISABLE` (R161). -/
def Store.disable (st : Store) (irq : Nat) (m : CpuMask) : Store := st.setEnabled irq false m

/-- `IS_ENABLED` (R162). -/
def Store.isEnabled (st : Store) (irq : Nat) (m : CpuMask) : Bool := testMask st.enabled irq m

/-- `IS_PENDING` (R162). -/
def Store.isPending (st : Store) (irq : Nat) (m : CpuMask) : Bool := testMask st.pending irq m

/-- `IS_ACTIVE` (R162). -/
def Store.isActive (st : Store) (irq : Nat) (m : CpuMask) : Bool := testMask st.active irq m

/-- `IS_LEVEL` (R160, R162). -/
def Store.isLevel (st : Store) (irq : Nat) (m : CpuMask) : Bool := testMask st.level irq m

/-- `IS_SIGNALED` (R160, R162). -/
def Store.isSignaled (st : Store) (irq : Nat) (m : CpuMask) : Bool := testMask st.signaled irq m

/-- `S.trigger[irq]`, hard-wired EDGE for an SGI (R32; DEDUCED, safe: log 9). An ID out of range, which
no rule passes, reads LEVEL (DESIGN CHOICE, safe: log 11). -/
def Store.triggerOf (st : Store) (irq : Nat) : Trigger :=
  if irq < nSgi then .edge else (st.trigger[irq - nSgi]?).getD .level

/-- `SET_TRIGGER` (R163): no effect on an SGI. -/
def Store.setTrigger (st : Store) (irq : Nat) (mode : Trigger) : Store :=
  if nSgi ≤ irq then { st with trigger := st.trigger.setIfInBounds (irq - nSgi) mode } else st

/-- What a store operation records for its ID (R164). No rule of the spec calls one with an ID out of range. -/
def storeCallDiag (irq : Nat) : List Diag := if irq < nIrq then [] else [.storeIdOutOfRange irq]

/-- The level catch-up of an enable (R202) and of an EOI (R284): a level-triggered interrupt whose line is high
becomes pending. -/
def Store.catchUp (st : Store) (irq : Nat) (m : CpuMask) : Store :=
  if st.triggerOf irq = .level ∧ st.isLevel irq m = true then st.setPending irq true m else st

/-- `DEACTIVATE(irq, m)` (R284). -/
def Store.deactivate (st : Store) (irq : Nat) (m : CpuMask) : Store :=
  ((st.setActive irq false m).setSignaled irq false m).catchUp irq m

end Sys2Proof.Machine
end

