-- ==== Sys2Proof/Machine/Access.lean ====
section
/-! DEFINITION. Reading and writing the state: one accessor and one update for each piece of it. -/

namespace Sys2Proof.Machine

/-- An entry of a byte table; 0 outside it, where no decoded instruction reads (DESIGN CHOICE, safe: log 12). -/
def tabGet {n : Nat} (t : Vector Byte n) (i : Nat) : Byte := t[i]?.getD 0#8

/-- An entry of a per-CPU byte table; 0 outside it. -/
def bankGet {n : Nat} (t : Vector (Vector Byte n) 8) (c : Cpu) (i : Nat) : Byte := tabGet t[c.val] i

/-- Write an entry of a per-CPU byte table; nothing outside it. -/
def bankSet {n : Nat} (t : Vector (Vector Byte n) 8) (c : Cpu) (i : Nat) (v : Byte) : Vector (Vector Byte n) 8 :=
  t.set c.val (t[c.val].setIfInBounds i v)

namespace State

/-- The current CPU of an access (R82): the initiator if it is connected, and CPU 0 otherwise (R462). -/
def current (s : State) (init : Nat) : Cpu :=
  if h : init < s.params.numCpu then ⟨init, Nat.lt_of_lt_of_le h s.params.numCpu_le⟩ else 0

/-- Change the interrupt state store. -/
def onStore (f : Store → Store) (s : State) : State := { s with store := f s.store }

/-- `sgi_src[c][i]` (R36). -/
def sgiSources (s : State) (c : Cpu) (i : Nat) : CpuMask := bankGet s.sgiSrc c i

/-- Write `sgi_src[c][i]` (R36). -/
def setSgiSources (s : State) (c : Cpu) (i : Nat) (v : CpuMask) : State := { s with sgiSrc := bankSet s.sgiSrc c i v }

/-- Write `dctlr` (R37). -/
def setDctlr (s : State) (v : BitVec 2) : State := { s with dctlr := v }

/-- `prio(irq, c)` (R40). -/
def prio (s : State) (irq : Nat) (c : Cpu) : Prio :=
  if irq < nPriv then bankGet s.prioPriv c irq else tabGet s.prioSpi (irq - nPriv)

/-- Write `prio_priv[c][irq]` (R38). -/
def setPrioPriv (s : State) (c : Cpu) (irq : Nat) (v : Prio) : State :=
  { s with prioPriv := bankSet s.prioPriv c irq v }

/-- Write `prio_spi[irq - 32]` (R38); nothing for an ID below 32. -/
def setPrioSpi (s : State) (irq : Nat) (v : Prio) : State :=
  if nPriv ≤ irq then { s with prioSpi := s.prioSpi.setIfInBounds (irq - nPriv) v } else s

/-- `itargets[irq - 32]` of an SPI (R39). -/
def targets (s : State) (irq : Nat) : CpuMask := tabGet s.itargets (irq - nPriv)

/-- Write `itargets[irq - 32]` (R39); nothing for an ID below 32. -/
def setTargets (s : State) (irq : Nat) (v : CpuMask) : State :=
  if nPriv ≤ irq then { s with itargets := s.itargets.setIfInBounds (irq - nPriv) v } else s

/-- The CPU interface of CPU `c` (R41). -/
def cpuIf (s : State) (c : Cpu) : CpuIf := s.cpu[c.val]

/-- Write the CPU interface of CPU `c` (R41). -/
def setCpuIf (s : State) (c : Cpu) (r : CpuIf) : State := { s with cpu := s.cpu.set c.val r }

/-- The virtual interface of CPU `c` (R45, R46). -/
def virtIf (s : State) (c : Cpu) : VirtIf := s.virt[c.val]

/-- Write the virtual interface of CPU `c` (R45, R46). -/
def setVirtIf (s : State) (c : Cpu) (v : VirtIf) : State := { s with virt := s.virt.set c.val v }

/-- The arbiter's results for CPU `c` (R409). -/
def arbOut (s : State) (c : Cpu) : ArbOut := s.arb[c.val]

/-- `irq_out[c]` (R43). -/
def irqOut (s : State) (c : Cpu) : Bool := (s.arbOut c).irqOut

/-- `virq_out[c]` (R47). -/
def virqOut (s : State) (c : Cpu) : Bool := (s.arbOut c).virqOut

/-- Set what the step gives the outside. -/
def setOut (s : State) (resp : Option Response) (diag : List Diag) : State := { s with out := { resp, diag } }

end State

/-- `lr[c][i]` (R44). -/
def VirtIf.listReg (v : VirtIf) (i : LrIx) : ListReg := v.lr[i.val]

/-- Write `lr[c][i]` (R44). -/
def VirtIf.setListReg (v : VirtIf) (i : LrIx) (e : ListReg) : VirtIf := { v with lr := v.lr.set i.val e }

end Sys2Proof.Machine
end

