-- ==== Sys2Proof/Machine/Arbiter.lean ====
section
/-! DEFINITION. Arbitration: the pass UPDATE() of 45_arbitration.md (R400 to R411). -/

namespace Sys2Proof.Machine

/-- The first of the elements with the numerically lowest priority: the scan that R403 and R408 make, in which an
earlier element wins a tie. -/
def firstBest {α : Type} (key : α → Prio) : List α → Option α
  | [] => none
  | a :: as =>
    match firstBest key as with
    | none => some a
    | some b => if better (key b) (key a) then some b else some a

/-! ## The physical domain -/

/-- The implemented IDs 0..NIMPL-1, in scan order (R10, R403). -/
def implementedIds (p : Params) : List Irq := (List.finRange p.nimpl).map (Fin.castLE p.nimpl_le)

/-- `CAND_PHYS(irq, c)` (R401), for an implemented ID. -/
def candPhys (s : State) (c : Cpu) (irq : Irq) : Bool :=
  s.store.isEnabled irq.val (maskFor irq.val c) && s.store.isPending irq.val (maskFor irq.val c) &&
    !s.store.isActive irq.val (maskFor irq.val c) &&
    (decide (irq.val < nPriv) || (s.targets irq.val).getLsbD c.val)

/-- The physical selection of CPU `c` (R403). -/
def physBest (s : State) (c : Cpu) : Option Irq :=
  firstBest (fun irq => s.prio irq.val c) ((implementedIds s.params).filter (candPhys s c))

/-- The distributor and the CPU interface of `c` are both enabled (R131, R402). -/
def physEnabled (s : State) (c : Cpu) : Bool := s.dctlr != 0#2 && (s.cpuIf c).ctlr != 0#2

/-- `hppir[c]` (R402, R404). -/
def hppirOf (s : State) (c : Cpu) : Option Irq :=
  if physEnabled s c then (physBest s c).filter (fun irq => better (s.prio irq.val c) (s.cpuIf c).pmr) else none

/-- `irq_out[c]` for the selection `h` (R402, R405). -/
def irqOutOf (s : State) (c : Cpu) (h : Option Irq) : Bool :=
  h.any (fun irq => better (s.prio irq.val c) (s.cpuIf c).rpr)

/-! ## The virtual domain -/

/-- `CAND_VIRT(c, i)` (R407). -/
def candVirt (v : VirtIf) (i : LrIx) : Bool := (v.listReg i).pending && !(v.listReg i).active

/-- The virtual selection (R408). -/
def virtBest (v : VirtIf) : Option LrIx :=
  firstBest (fun i => (v.listReg i).prio) ((List.finRange 4).filter (candVirt v))

/-- The virtual domain is enabled (R131, R406). -/
def virtEnabled (v : VirtIf) : Bool := v.hcr != 0#1 && v.ctlr != 0#2

/-- `vhppir[c]` (R406, R410). -/
def vhppirOf (v : VirtIf) : Option LrIx :=
  if virtEnabled v then (virtBest v).filter (fun i => better (v.listReg i).prio v.pmr) else none

/-- `virq_out[c]` for the selection `h` (R406, R411). -/
def virqOutOf (v : VirtIf) (h : Option LrIx) : Bool := h.any (fun i => better (v.listReg i).prio v.rpr)

/-! ## The pass -/

/-- UPDATE_PHYS and UPDATE_VIRT for one CPU (R402 to R411). -/
def arbFor (s : State) (c : Cpu) : ArbOut :=
  { hppir := hppirOf s c
    irqOut := irqOutOf s c (hppirOf s c)
    vhppir := vhppirOf (s.virtIf c)
    virqOut := virqOutOf (s.virtIf c) (vhppirOf (s.virtIf c)) }

/-- One entry for each of the NCPU CPUs. -/
def perCpu {α : Type} (f : Cpu → α) : Vector α 8 := #v[f 0, f 1, f 2, f 3, f 4, f 5, f 6, f 7]

/-- `UPDATE()` (R400): both domains of every connected CPU; the other CPUs keep what they have. -/
def update (s : State) : State :=
  { s with arb := perCpu (fun c => if c.val < s.params.numCpu then arbFor s c else s.arbOut c) }

end Sys2Proof.Machine
end

