-- ==== Sys2Proof/Machine/Ops.lean ====
section
/-! DEFINITION. The shared operations of the meanings: how a step ends, taking an interrupt (the acknowledge, which is
the block's part of trap entry, 60_exceptions.md R444) and returning from one (the end of interrupt, R445), both with
their virtual twin, software-generated interrupts, the delivery of a request, and construction. -/

namespace Sys2Proof.Machine

/-- What a step of the block answers. -/
abbrev Result := Host.Outcome State Fault Refusal

/-! ## How a step ends -/

/-- The diagnostic of an access by an unmapped CPU (R462). -/
def initiatorDiag (p : Params) (init : Nat) : List Diag :=
  if init < p.numCpu then [] else [.accessFromUnmappedCpu init]

/-- The state after an access that ends with response `r`; the initiator's diagnostic stands first (DESIGN CHOICE, safe:
log 17). -/
def State.respond (s : State) (init : Nat) (r : Response) (diag : List Diag) : State :=
  s.setOut (some r) (initiatorDiag s.params init ++ diag)

/-- `respond OK(v)` of a read that runs no UPDATE. -/
def readDone (init : Nat) (v : Word) (s : State) : Result := .next (s.respond init (.okData v) [])

/-- `UPDATE(); respond OK`: the end of an accepted write (R200, R270, R320, R360). -/
def writeDone (init : Nat) (diag : List Diag) (s : State) : Result := .next ((update s).respond init .ok diag)

/-- `diag; respond OK`: the end of a write that is ignored (R432), with no state change and no UPDATE. -/
def ignored (init : Nat) (d : Diag) (s : State) : Result := .next (s.respond init .ok [d])

/-- The end of a step that is no access. -/
def eventDone (s : State) : Result := .next (s.setOut none [])

/-! ## Taking an interrupt: the acknowledge (R275, R444) -/

/-- The source CPU an SGI word carries now: the lowest pending source, 0 if there is none or for any other ID
(R275, R290). -/
def sgiSource (s : State) (c : Cpu) (irq : Nat) : Nat :=
  if irq < nSgi then
    if s.sgiSources c irq = 0#8 then 0 else lowestSet (s.sgiSources c irq)
  else 0

/-- The diagnostic of an acknowledge: a pending SGI without a source (R275). -/
def acknowledgeDiag (s : State) (c : Cpu) (irq : Nat) : List Diag :=
  if irq < nSgi ∧ s.sgiSources c irq = 0#8 then [.sgiSourceOverflow] else []

/-- The sources of SGI `irq` on CPU `c` that an acknowledge leaves (R275). -/
def sourcesLeft (s : State) (c : Cpu) (irq : Nat) : CpuMask :=
  if s.sgiSources c irq = 0#8 then 0#8 else s.sgiSources c irq &&& ~~~(bit (lowestSet (s.sgiSources c irq)))

/-- The pending state an acknowledge consumes: one source of an SGI, the pending bits of any other ID (R275). -/
def consumePending (s : State) (c : Cpu) (irq : Nat) : State :=
  if irq < nSgi then
    (s.setSgiSources c irq (sourcesLeft s c irq)).onStore
      (fun st => st.setPending irq (sourcesLeft s c irq != 0#8) (bit c.val))
  else s.onStore (fun st => st.setPending irq false (maskFor irq c))

/-- Taking interrupt `irq` on CPU `c`, before the UPDATE that follows (R275): pending is consumed, active and signaled
are set, the ID is pushed, which saves the interrupt it preempts, and the running priority becomes its priority. -/
def takeInterrupt (s : State) (c : Cpu) (irq : Irq) : State :=
  let s1 := (consumePending s c irq.val).onStore
    (fun st => (st.setActive irq.val true (maskFor irq.val c)).setSignaled irq.val true (maskFor irq.val c))
  s1.setCpuIf c { s1.cpuIf c with stk := irq :: (s1.cpuIf c).stk, rpr := s.prio irq.val c }

/-- The interrupt a GICC_IAR read of CPU `c` would take now (R274, R275): hppir[c] if it can preempt. -/
def viable (s : State) (c : Cpu) : Option Irq :=
  (s.arbOut c).hppir.filter (fun irq => better (s.prio irq.val c) (s.cpuIf c).rpr)

/-! ## Returning from an interrupt: the end of interrupt (R280 to R284, R445) -/

/-- The running priority that a preemption stack gives (R282): the head's priority now, IDLE_PRIO if it is empty. -/
def restoredPrio (s : State) (c : Cpu) : List Irq → Prio
  | [] => idlePrio
  | irq :: _ => s.prio irq.val c

/-- The in-order end: pop, restore the running priority, deactivate (R282). -/
def endInOrder (s : State) (c : Cpu) (irq : Irq) (rest : List Irq) : State :=
  (s.setCpuIf c { s.cpuIf c with stk := rest, rpr := restoredPrio s c rest }).onStore
    (fun st => st.deactivate irq.val (maskFor irq.val c))

/-- The out-of-order end: remove the innermost occurrence, deactivate (R283). -/
def endOutOfOrder (s : State) (c : Cpu) (irq : Irq) : State :=
  (s.setCpuIf c { s.cpuIf c with stk := (s.cpuIf c).stk.erase irq }).onStore
    (fun st => st.deactivate irq.val (maskFor irq.val c))

/-- The end of interrupt `id` on CPU `c`, before the UPDATE that follows, or why it is ignored (R280 to R283). -/
def endInterrupt (s : State) (c : Cpu) (id : Nat) : Except Diag State :=
  if h : id < 512 then
    match (s.cpuIf c).stk with
    | [] => .error .eoiNoActive
    | top :: rest =>
      if (⟨id, h⟩ : Irq) = top then .ok (endInOrder s c ⟨id, h⟩ rest)
      else if (⟨id, h⟩ : Irq) ∈ rest then .ok (endOutOfOrder s c ⟨id, h⟩)
      else .error .eoiNotOnStack
  else .error .eoiOutOfRange

/-! ## The virtual acknowledge and the virtual end of interrupt (R331 to R333, R365 to R373) -/

/-- `get_lr(c, vid)` (R331). -/
def getLr (v : VirtIf) (vid : BitVec 10) : Option LrIx :=
  (List.finRange 4).find? (fun i =>
    (v.listReg i).virtualId == vid && ((v.listReg i).pending || (v.listReg i).active))

/-- The diagnostic of a list-register lookup (R331). -/
def getLrDiag (v : VirtIf) (vid : BitVec 10) : List Diag :=
  match getLr v vid with
  | none => [.lrLookupMiss]
  | some _ => []

/-- `get_irq_priority(c, vid)` (R332); no access rule depends on it. -/
def getIrqPriority (v : VirtIf) (vid : BitVec 10) : Prio :=
  match getLr v vid with
  | none => 0#8
  | some i => (v.listReg i).prio

/-- The entry a GICV_IAR read of CPU `c` would take now (R365, R366): vhppir[c] if it can preempt. -/
def viableVirtual (s : State) (c : Cpu) : Option LrIx :=
  (s.arbOut c).vhppir.filter (fun i => better ((s.virtIf c).listReg i).prio (s.virtIf c).rpr)

/-- Taking virtual interrupt `i` (R366), before the UPDATE that follows. -/
def takeVirtual (sel : AprSelect) (v : VirtIf) (i : LrIx) : VirtIf :=
  let a := v.apr ||| (1#32 <<< prioLevel (v.listReg i).prio)
  { v.setListReg i { v.listReg i with pending := false, active := true } with apr := a, rpr := aprPrio sel a }

/-- The priority drop of a virtual end of interrupt (R370). -/
def virtualDrop (sel : AprSelect) (v : VirtIf) : VirtIf :=
  { v with apr := aprPop sel v.apr, rpr := aprPrio sel (aprPop sel v.apr) }

/-- The physical ID of a hardware-backed entry is one whose interrupt an EOI may deactivate: the open interval
(NSGI, NIRQ) (R372). -/
def physicalIdOk (pid : Nat) : Bool := decide (nSgi < pid) && decide (pid < nIrq)

/-- The list-register deactivation of a virtual end of interrupt (R371 to R373), with its diagnostics. -/
def virtualDeactivate (s : State) (c : Cpu) (vid : BitVec 10) : State × List Diag :=
  match getLr (s.virtIf c) vid with
  | none => (s, getLrDiag (s.virtIf c) vid)
  | some i =>
    let e := (s.virtIf c).listReg i
    let s1 := s.setVirtIf c ((s.virtIf c).setListReg i { e with active := false })
    if e.hw then
      if physicalIdOk e.physicalId.toNat then
        (s1.onStore (fun st => st.deactivate e.physicalId.toNat (maskFor e.physicalId.toNat c)), [])
      else (s1, [.badLrPhysicalId])
    else (s1, [])

/-- The virtual end of interrupt of CPU `c`, before the UPDATE that follows, or why it is ignored (R370 to R373). -/
def endVirtual (s : State) (c : Cpu) (vid : BitVec 10) : Except Diag (State × List Diag) :=
  if vid.toNat < nIrq then
    .ok (virtualDeactivate (s.setVirtIf c (virtualDrop s.params.aprSelect (s.virtIf c))) c vid)
  else .error .virtualEoiOutOfRange

/-! ## Software-generated interrupts (R231, R251, R252) -/

/-- CPU `c` raises SGI `sgi` on CPU `t` (R231). -/
def raiseSgiOn (sgi : Nat) (c t : Cpu) (s : State) : State :=
  (s.setSgiSources t sgi (s.sgiSources t sgi ||| bit c.val)).onStore (fun st => st.setPending sgi true (bit t.val))

/-- CPU `c` raises SGI `sgi` on every CPU of the target set (R231). -/
def raiseSgi (sgi : Nat) (c : Cpu) (targets : CpuMask) (s : State) : State :=
  (List.finRange 8).foldl (fun s t => if targets.getLsbD t.val then raiseSgiOn sgi c t s else s) s

/-- Write the sources of SGI `i` on CPU `c`, and its aggregate pending bit with them (R251, R252). An index of no SGI
changes nothing. -/
def writeSgiSources (c : Cpu) (i : Nat) (v : CpuMask) (s : State) : State :=
  if i < nSgi then
    (s.setSgiSources c i v).onStore (fun st => st.setPending i (v != 0#8) (bit c.val))
  else s

/-! ## Line events (R171, R172) -/

/-- The mask of the CPUs a port drives (R170). -/
def portMask : Port → CpuMask
  | .ppi c _ => bit c.val
  | .spi _ => allCpus

/-- The store after a level-triggered line event that changes the level (R171). -/
def lineLevelStore (irq : Nat) (m : CpuMask) (v : Bool) (st : Store) : Store :=
  if v then
    if st.isSignaled irq m then st.setLevel irq v m else (st.setLevel irq v m).setPending irq true m
  else (st.setLevel irq v m).setPending irq false m

/-- The store after an edge-triggered line event that changes the level (R172). -/
def lineEdgeStore (gated : Bool) (irq : Nat) (m : CpuMask) (v : Bool) (st : Store) : Store :=
  if v && !(gated && st.isSignaled irq m) then (st.setLevel irq v m).setPending irq true m
  else st.setLevel irq v m

/-! ## Delivery and construction -/

/-- The oldest request and the state without it (R88, R91). -/
def State.fetch (s : State) : Option (Request × State) :=
  match s.inbox with
  | [] => none
  | r :: rest => some (r, { s with inbox := rest })

/-- What a request decodes to in this state (R112, R170). -/
def State.decodeRequest (s : State) (r : Request) : Except DecodeError Instr :=
  decode s.params s.store.triggerOf r

/-- The state with a request to be performed next. -/
def State.deliver (s : State) (r : Request) : State := { s with inbox := r :: s.inbox }

/-- Elaboration (R435): a block after its first reset (R480), or the configuration error that aborts it
(DEDUCED, safe: log 13). -/
def construct (numCpu numSpi : Nat) (policy : AccessErrorPolicy) (edgeGated icactiverUpdates : Bool)
    (sel : AprSelect) (bases : WindowBases) : Result :=
  match Params.elaborate numCpu numSpi policy edgeGated icactiverUpdates sel bases with
  | .ok p => .next (State.resetWith p)
  | .error e => .fault (.configuration e)

end Sys2Proof.Machine
end

