-- ==== Sys2Proof/Machine/CpuInterface.lean ====
section
/-! DEFINITION. The meanings of the CPU interface's rows (42_cpu_interface.md). -/

namespace Sys2Proof.Machine

/-! ## Control, mask and binary point (R271 to R273) -/

def execRdGiccCtlr (init : Nat) (s : State) : Result :=
  readDone init ((s.cpuIf (s.current init)).ctlr.setWidth 32) s

def execWrGiccCtlr (init : Nat) (data : Word) (s : State) : Result :=
  let c := s.current init
  writeDone init [] (s.setCpuIf c { s.cpuIf c with ctlr := data.extractLsb' 0 2 })

def execRdGiccPmr (init : Nat) (s : State) : Result :=
  readDone init ((s.cpuIf (s.current init)).pmr.setWidth 32) s

def execWrGiccPmr (init : Nat) (data : Word) (s : State) : Result :=
  let c := s.current init
  writeDone init [] (s.setCpuIf c { s.cpuIf c with pmr := data.extractLsb' 0 8 })

def execRdGiccBpr (init : Nat) (s : State) : Result :=
  readDone init ((s.cpuIf (s.current init)).bpr.setWidth 32) s

def execWrGiccBpr (init : Nat) (data : Word) (s : State) : Result :=
  let c := s.current init
  writeDone init [] (s.setCpuIf c { s.cpuIf c with bpr := data.extractLsb' 0 3 })

def execRdGiccAbpr (init : Nat) (s : State) : Result :=
  readDone init ((s.cpuIf (s.current init)).abpr.setWidth 32) s

def execWrGiccAbpr (init : Nat) (data : Word) (s : State) : Result :=
  let c := s.current init
  writeDone init [] (s.setCpuIf c { s.cpuIf c with abpr := data.extractLsb' 0 3 })

/-! ## Acknowledge and end of interrupt (R274, R275, R280 to R284) -/

def execRdGiccIar (init : Nat) (s : State) : Result :=
  let c := s.current init
  match viable s c with
  | none => readDone init spuriousWord s
  | some irq =>
    .next ((update (takeInterrupt s c irq)).respond init (.okData (intidWord irq.val (sgiSource s c irq.val)))
      (acknowledgeDiag s c irq.val))

def execWrGiccEoir (init : Nat) (data : Word) (s : State) : Result :=
  match endInterrupt s (s.current init) (eoirId data) with
  | .ok t => writeDone init [] t
  | .error d => ignored init d s

/-! ## Status (R290, R291) -/

def execRdGiccRpr (init : Nat) (s : State) : Result :=
  readDone init ((s.cpuIf (s.current init)).rpr.setWidth 32) s

def execRdGiccHppir (init : Nat) (s : State) : Result :=
  let c := s.current init
  match (s.arbOut c).hppir with
  | none => readDone init spuriousWord s
  | some irq => readDone init (intidWord irq.val (sgiSource s c irq.val)) s

end Sys2Proof.Machine
end

