-- ==== Sys2Proof/Machine/Distributor.lean ====
section
/-! DEFINITION. The meanings of the distributor's rows (41_distributor.md). -/

namespace Sys2Proof.Machine

/-! ## The shared shapes of the one-bit-per-ID registers (R125) -/

/-- The word a one-bit-per-ID register reads: bit `b` is `impl(irq) and test(irq)` with irq = 32·word + b. -/
def bitWord (p : Params) (word : Nat) (test : Nat → Bool) : Word :=
  packBits (fun b => p.impl (32 * word + b) && test (32 * word + b))

/-- The enable bits CPU `c` sees in a word (R202, R203). -/
def enabledWord (s : State) (c : Cpu) (word : Nat) : Word :=
  bitWord s.params word (fun irq => s.store.isEnabled irq (maskFor irq c))

/-- The pending bits CPU `c` sees in a word (R210, R211). -/
def pendingWord (s : State) (c : Cpu) (word : Nat) : Word :=
  bitWord s.params word (fun irq => s.store.isPending irq (maskFor irq c))

/-- The active bits CPU `c` sees in a word (R220, R223). -/
def activeWord (s : State) (c : Cpu) (word : Nat) : Word :=
  bitWord s.params word (fun irq => s.store.isActive irq (maskFor irq c))

/-- Do `f irq` for the implemented IDs of a word whose data bit is 1 (R202). -/
def forWordIds (p : Params) (word : Nat) (data : Word) (f : Nat → Store → Store) (st : Store) : Store :=
  forSetBits data (fun b st => if p.impl (32 * word + b) then f (32 * word + b) st else st) st

/-- The ISENABLER write of one ID: enable, with the level catch-up (R202). -/
def enableId (c : Cpu) (irq : Nat) (st : Store) : Store :=
  (st.enable irq (maskFor irq c)).catchUp irq (maskFor irq c)

/-- The ICENABLER write of one ID (R203). -/
def disableId (c : Cpu) (irq : Nat) (st : Store) : Store := st.disable irq (maskFor irq c)

/-- The ISPENDR and ICPENDR write of one ID: SGI bits are ignored (R210, R211). -/
def pendId (v : Bool) (c : Cpu) (irq : Nat) (st : Store) : Store :=
  if nSgi ≤ irq then st.setPending irq v (maskFor irq c) else st

/-- The ICACTIVER write of one ID (R222). -/
def deactId (c : Cpu) (irq : Nat) (st : Store) : Store := st.setActive irq false (maskFor irq c)

/-- A write of a word of a one-bit-per-ID register, before the UPDATE (R202 to R222). -/
def writeWord (s : State) (word : Nat) (data : Word) (f : Nat → Store → Store) : State :=
  s.onStore (forWordIds s.params word data f)

/-! ## Control and type (R201, R260) -/

def execRdGicdCtlr (init : Nat) (s : State) : Result := readDone init (s.dctlr.setWidth 32) s

def execWrGicdCtlr (init : Nat) (data : Word) (s : State) : Result :=
  writeDone init [] (s.setDctlr (data.extractLsb' 0 2))

def execRdGicdTyper (init : Nat) (s : State) : Result := readDone init (typerWord s.params) s

/-! ## Enable (R202, R203) -/

def execRdGicdIsenabler0 (init : Nat) (s : State) : Result := readDone init (enabledWord s (s.current init) 0) s

def execWrGicdIsenabler0 (init : Nat) (data : Word) (s : State) : Result :=
  writeDone init [] (writeWord s 0 data (enableId (s.current init)))

def execRdGicdIsenablerSpi (word init : Nat) (s : State) : Result :=
  readDone init (enabledWord s (s.current init) word) s

def execWrGicdIsenablerSpi (word init : Nat) (data : Word) (s : State) : Result :=
  writeDone init [] (writeWord s word data (enableId (s.current init)))

def execRdGicdIcenabler0 (init : Nat) (s : State) : Result := readDone init (enabledWord s (s.current init) 0) s

def execWrGicdIcenabler0 (init : Nat) (data : Word) (s : State) : Result :=
  writeDone init [] (writeWord s 0 data (disableId (s.current init)))

def execRdGicdIcenablerSpi (word init : Nat) (s : State) : Result :=
  readDone init (enabledWord s (s.current init) word) s

def execWrGicdIcenablerSpi (word init : Nat) (data : Word) (s : State) : Result :=
  writeDone init [] (writeWord s word data (disableId (s.current init)))

/-! ## Pending (R210, R211) -/

def execRdGicdIspendr0 (init : Nat) (s : State) : Result := readDone init (pendingWord s (s.current init) 0) s

def execWrGicdIspendr0 (init : Nat) (data : Word) (s : State) : Result :=
  writeDone init [] (writeWord s 0 data (pendId true (s.current init)))

def execRdGicdIspendrSpi (word init : Nat) (s : State) : Result :=
  readDone init (pendingWord s (s.current init) word) s

def execWrGicdIspendrSpi (word init : Nat) (data : Word) (s : State) : Result :=
  writeDone init [] (writeWord s word data (pendId true (s.current init)))

def execRdGicdIcpendr0 (init : Nat) (s : State) : Result := readDone init (pendingWord s (s.current init) 0) s

def execWrGicdIcpendr0 (init : Nat) (data : Word) (s : State) : Result :=
  writeDone init [] (writeWord s 0 data (pendId false (s.current init)))

def execRdGicdIcpendrSpi (word init : Nat) (s : State) : Result :=
  readDone init (pendingWord s (s.current init) word) s

def execWrGicdIcpendrSpi (word init : Nat) (data : Word) (s : State) : Result :=
  writeDone init [] (writeWord s word data (pendId false (s.current init)))

/-! ## Active (R220, R222, R223) -/

def execRdGicdIsactiver0 (init : Nat) (s : State) : Result := readDone init (activeWord s (s.current init) 0) s

def execRdGicdIsactiverSpi (word init : Nat) (s : State) : Result :=
  readDone init (activeWord s (s.current init) word) s

def execRdGicdIcactiver0 (init : Nat) (s : State) : Result := readDone init (activeWord s (s.current init) 0) s

/-- Word 0 re-arbitrates only under ICACTIVER_PPI_UPDATES (R222, 90_conflicts.md C1). -/
def execWrGicdIcactiver0 (init : Nat) (data : Word) (s : State) : Result :=
  let s1 := writeWord s 0 data (deactId (s.current init))
  if s.params.icactiverPpiUpdates then writeDone init [] s1 else .next (s1.respond init .ok [])

def execRdGicdIcactiverSpi (word init : Nat) (s : State) : Result :=
  readDone init (activeWord s (s.current init) word) s

def execWrGicdIcactiverSpi (word init : Nat) (data : Word) (s : State) : Result :=
  writeDone init [] (writeWord s word data (deactId (s.current init)))

/-! ## Priority (R224 to R226) -/

/-- The IPRIORITYR byte of ID `irq` that CPU `c` reads (R224). -/
def priorityByte (s : State) (c : Cpu) (irq : Nat) : Byte := if s.params.impl irq then s.prio irq c else 0#8

def execRdGicdIpriorityrPriv (first : Nat) (n : Width) (init : Nat) (s : State) : Result :=
  readDone init (packBytes n (fun k => priorityByte s (s.current init) (first + k))) s

def execWrGicdIpriorityrPriv (first : Nat) (n : Width) (init : Nat) (data : Word) (s : State) : Result :=
  writeDone init []
    (forBytes n (fun k t => t.setPrioPriv (s.current init) (first + k) (byteOf data k)) s)

def execRdGicdIpriorityrSpi (first : Nat) (n : Width) (init : Nat) (s : State) : Result :=
  readDone init (packBytes n (fun k => priorityByte s (s.current init) (first + k))) s

def execWrGicdIpriorityrSpi (first : Nat) (n : Width) (init : Nat) (data : Word) (s : State) : Result :=
  writeDone init []
    (forBytes n (fun k t => if s.params.impl (first + k) then t.setPrioSpi (first + k) (byteOf data k) else t) s)

/-! ## Targets (R227 to R229) -/

def execRdGicdItargetsrPriv (_first : Nat) (n : Width) (init : Nat) (s : State) : Result :=
  readDone init (packBytes n (fun _ => bit (s.current init).val)) s

def execRdGicdItargetsrSpi (first : Nat) (n : Width) (init : Nat) (s : State) : Result :=
  readDone init (packBytes n (fun k => if s.params.impl (first + k) then s.targets (first + k) else 0#8)) s

def execWrGicdItargetsrSpi (first : Nat) (n : Width) (init : Nat) (data : Word) (s : State) : Result :=
  writeDone init []
    (forBytes n (fun k t => if s.params.impl (first + k) then t.setTargets (first + k) (byteOf data k) else t) s)

/-! ## Trigger configuration (R240, R241) -/

/-- The ICFGR word `word` (R240): the field of ID 16·word + k is 0b10 for EDGE and 0b00 otherwise. -/
def icfgrWord (s : State) (word : Nat) : Word :=
  packBits (fun b => b % 2 == 1 && s.params.impl (16 * word + b / 2) &&
    s.store.triggerOf (16 * word + b / 2) == .edge)

/-- An ICFGR write, before the UPDATE (R241). -/
def writeIcfgr (s : State) (word : Nat) (data : Word) : State :=
  s.onStore (fun st => (List.range 16).foldl
    (fun st k => if s.params.impl (16 * word + k)
      then st.setTrigger (16 * word + k) (triggerOfField (icfgrField data k)) else st) st)

def execRdGicdIcfgr0 (init : Nat) (s : State) : Result := readDone init (icfgrWord s 0) s

def execRdGicdIcfgr1 (init : Nat) (s : State) : Result := readDone init (icfgrWord s 1) s

def execWrGicdIcfgr1 (init : Nat) (data : Word) (s : State) : Result := writeDone init [] (writeIcfgr s 1 data)

def execRdGicdIcfgrSpi (word init : Nat) (s : State) : Result := readDone init (icfgrWord s word) s

def execWrGicdIcfgrSpi (word init : Nat) (data : Word) (s : State) : Result :=
  writeDone init [] (writeIcfgr s word data)

/-! ## Software-generated interrupts (R230, R231, R250 to R252) -/

def execWrGicdSgir (init : Nat) (data : Word) (s : State) : Result :=
  match sgirTargets s.params (s.current init) data with
  | none => ignored init .unrecognizedSgiFilter s
  | some targets => writeDone init [] (raiseSgi (sgirSgi data) (s.current init) targets s)

/-- The source bitmaps of SGIs `first..` on CPU `c`, as CPENDSGIR and SPENDSGIR read them (R250). -/
def sgiSourcesWord (s : State) (c : Cpu) (first : Nat) (n : Width) : Word :=
  packBytes n (fun k => s.sgiSources c (first + k))

def execRdGicdCpendsgir (first : Nat) (n : Width) (init : Nat) (s : State) : Result :=
  readDone init (sgiSourcesWord s (s.current init) first n) s

def execWrGicdCpendsgir (first : Nat) (n : Width) (init : Nat) (data : Word) (s : State) : Result :=
  let c := s.current init
  writeDone init [] (forBytes n
    (fun k t => writeSgiSources c (first + k) (t.sgiSources c (first + k) &&& ~~~(byteOf data k)) t) s)

def execRdGicdSpendsgir (first : Nat) (n : Width) (init : Nat) (s : State) : Result :=
  readDone init (sgiSourcesWord s (s.current init) first n) s

def execWrGicdSpendsgir (first : Nat) (n : Width) (init : Nat) (data : Word) (s : State) : Result :=
  let c := s.current init
  writeDone init [] (forBytes n
    (fun k t => writeSgiSources c (first + k) (t.sgiSources c (first + k) ||| byteOf data k) t) s)

end Sys2Proof.Machine
end

