-- ==== Sys2Proof/Machine/Events.lean ====
section
/-! DEFINITION. The meanings of the line events (40_state_store.md R170 to R172), of reset (R480), and of the access
error (R86, R431). -/

namespace Sys2Proof.Machine

/-- LINE_LEVEL (R171). A repeated level changes nothing and runs no UPDATE. -/
def execLineLevel (port : Port) (value : Bool) (s : State) : Result :=
  if value = s.store.isLevel port.irq (portMask port) then eventDone s
  else eventDone (update (s.onStore (lineLevelStore port.irq (portMask port) value)))

/-- LINE_EDGE (R172). A repeated level changes nothing and runs no UPDATE. -/
def execLineEdge (port : Port) (value : Bool) (s : State) : Result :=
  if value = s.store.isLevel port.irq (portMask port) then eventDone s
  else
    eventDone (update
      (s.onStore (lineEdgeStore s.params.edgeGatedBySignaled port.irq (portMask port) value)))

/-- RESET (R480): the reset value of every piece of state, then UPDATE. The parameters stay, and so do the requests
that are still to be performed (DESIGN CHOICE, unsafe: log 14). -/
def execReset (s : State) : Result :=
  eventDone (update { State.resetWith s.params with inbox := s.inbox })

/-- The causes recorded for an access error (R431). -/
def accessErrorDiag (key : BitVec 16) (n : Width) : List Diag :=
  match accessErrorCause key n with
  | none => []
  | some code => [.accessError code]

/-- The response to an access error, by ACCESS_ERROR_POLICY (R86). -/
def accessErrorResponse (policy : AccessErrorPolicy) (d : Dir) : Response :=
  match policy, d with
  | .error, _ => .error
  | .razWi, .read => .okData 0#32
  | .razWi, .write => .ok

/-- An access error (R86, R431): no state changes and UPDATE does not run. -/
def execAccessError (key : BitVec 16) (n : Width) (init : Nat) (_data : Word) (s : State) : Result :=
  .next (s.respond init (accessErrorResponse s.params.accessErrorPolicy (keyDir key)) (accessErrorDiag key n))

end Sys2Proof.Machine
end

