-- ==== Sys2Proof/Machine/VirtualControl.lean ====
section
/-! DEFINITION. The meanings of the virtual interface control's rows (43_virtual_interface_control.md). -/

namespace Sys2Proof.Machine

def execRdGichHcr (init : Nat) (s : State) : Result :=
  readDone init ((s.virtIf (s.current init)).hcr.setWidth 32) s

def execWrGichHcr (init : Nat) (data : Word) (s : State) : Result :=
  let c := s.current init
  writeDone init [] (s.setVirtIf c { s.virtIf c with hcr := data.extractLsb' 0 1 })

def execRdGichVtr (init : Nat) (s : State) : Result := readDone init vtrWord s

def execRdGichVmcr (init : Nat) (s : State) : Result := readDone init (vmcrWord (s.virtIf (s.current init))) s

def execWrGichVmcr (init : Nat) (data : Word) (s : State) : Result :=
  let c := s.current init
  writeDone init [] (s.setVirtIf c ((s.virtIf c).withVmcr data))

def execRdGichApr (init : Nat) (s : State) : Result := readDone init (s.virtIf (s.current init)).apr s

/-- A direct write recomputes the virtual running priority (R330). -/
def execWrGichApr (init : Nat) (data : Word) (s : State) : Result :=
  let c := s.current init
  writeDone init [] (s.setVirtIf c { s.virtIf c with apr := data, rpr := aprPrio s.params.aprSelect data })

def execRdGichLr (i : LrIx) (init : Nat) (s : State) : Result :=
  readDone init (listRegWord ((s.virtIf (s.current init)).listReg i)) s

/-- The entry is written wholesale (R322). -/
def execWrGichLr (i : LrIx) (init : Nat) (data : Word) (s : State) : Result :=
  let c := s.current init
  writeDone init [] (s.setVirtIf c ((s.virtIf c).setListReg i (listRegOfWord data)))

end Sys2Proof.Machine
end

