-- ==== Sys2Proof/Machine/VirtualCpu.lean ====
section
/-! DEFINITION. The meanings of the virtual CPU interface's rows (44_virtual_cpu_interface.md). -/

namespace Sys2Proof.Machine

/-! ## Control, mask, binary point (R361 to R363) -/

def execRdGicvCtlr (init : Nat) (s : State) : Result :=
  readDone init ((s.virtIf (s.current init)).ctlr.setWidth 32) s

def execWrGicvCtlr (init : Nat) (data : Word) (s : State) : Result :=
  let c := s.current init
  writeDone init [] (s.setVirtIf c { s.virtIf c with ctlr := data.extractLsb' 0 2 })

def execRdGicvPmr (init : Nat) (s : State) : Result :=
  readDone init ((s.virtIf (s.current init)).pmr.setWidth 32) s

def execWrGicvPmr (init : Nat) (data : Word) (s : State) : Result :=
  let c := s.current init
  writeDone init [] (s.setVirtIf c { s.virtIf c with pmr := data.extractLsb' 0 8 })

def execRdGicvBpr (init : Nat) (s : State) : Result :=
  readDone init ((s.virtIf (s.current init)).bpr.setWidth 32) s

def execWrGicvBpr (init : Nat) (data : Word) (s : State) : Result :=
  let c := s.current init
  writeDone init [] (s.setVirtIf c { s.virtIf c with bpr := data.extractLsb' 0 3 })

def execRdGicvAbpr (init : Nat) (s : State) : Result :=
  readDone init ((s.virtIf (s.current init)).abpr.setWidth 32) s

def execWrGicvAbpr (init : Nat) (data : Word) (s : State) : Result :=
  let c := s.current init
  writeDone init [] (s.setVirtIf c { s.virtIf c with abpr := data.extractLsb' 0 3 })

/-! ## Virtual acknowledge and end of interrupt (R365, R366, R370 to R373) -/

def execRdGicvIar (init : Nat) (s : State) : Result :=
  let c := s.current init
  match viableVirtual s c with
  | none => readDone init spuriousWord s
  | some i =>
    .next ((update (s.setVirtIf c (takeVirtual s.params.aprSelect (s.virtIf c) i))).respond init
      (.okData (vidWord ((s.virtIf c).listReg i))) [])

def execWrGicvEoir (init : Nat) (data : Word) (s : State) : Result :=
  match endVirtual s (s.current init) (data.extractLsb' 0 10) with
  | .ok (t, diag) => writeDone init diag t
  | .error d => ignored init d s

/-! ## Status (R364, R367) -/

def execRdGicvRpr (init : Nat) (s : State) : Result :=
  readDone init ((s.virtIf (s.current init)).rpr.setWidth 32) s

def execRdGicvHppir (init : Nat) (s : State) : Result :=
  let c := s.current init
  match (s.arbOut c).vhppir with
  | none => readDone init spuriousWord s
  | some i => readDone init (vidWord ((s.virtIf c).listReg i)) s

end Sys2Proof.Machine
end

