-- ==== Sys2Proof/Machine/Dispatch.lean ====
section
/-! DEFINITION. One arm per row of spec/opcode_table.json. -/

namespace Sys2Proof.Machine

def exec (i : Instr) (s : State) : Host.Outcome State Fault Refusal :=
  match i with
  | .rdGicdCtlr init => Sys2Proof.Machine.execRdGicdCtlr init s
  | .wrGicdCtlr init data => Sys2Proof.Machine.execWrGicdCtlr init data s
  | .rdGicdTyper init => Sys2Proof.Machine.execRdGicdTyper init s
  | .rdGicdIsenabler0 init => Sys2Proof.Machine.execRdGicdIsenabler0 init s
  | .wrGicdIsenabler0 init data => Sys2Proof.Machine.execWrGicdIsenabler0 init data s
  | .rdGicdIsenablerSpi word init => Sys2Proof.Machine.execRdGicdIsenablerSpi word init s
  | .wrGicdIsenablerSpi word init data => Sys2Proof.Machine.execWrGicdIsenablerSpi word init data s
  | .rdGicdIcenabler0 init => Sys2Proof.Machine.execRdGicdIcenabler0 init s
  | .wrGicdIcenabler0 init data => Sys2Proof.Machine.execWrGicdIcenabler0 init data s
  | .rdGicdIcenablerSpi word init => Sys2Proof.Machine.execRdGicdIcenablerSpi word init s
  | .wrGicdIcenablerSpi word init data => Sys2Proof.Machine.execWrGicdIcenablerSpi word init data s
  | .rdGicdIspendr0 init => Sys2Proof.Machine.execRdGicdIspendr0 init s
  | .wrGicdIspendr0 init data => Sys2Proof.Machine.execWrGicdIspendr0 init data s
  | .rdGicdIspendrSpi word init => Sys2Proof.Machine.execRdGicdIspendrSpi word init s
  | .wrGicdIspendrSpi word init data => Sys2Proof.Machine.execWrGicdIspendrSpi word init data s
  | .rdGicdIcpendr0 init => Sys2Proof.Machine.execRdGicdIcpendr0 init s
  | .wrGicdIcpendr0 init data => Sys2Proof.Machine.execWrGicdIcpendr0 init data s
  | .rdGicdIcpendrSpi word init => Sys2Proof.Machine.execRdGicdIcpendrSpi word init s
  | .wrGicdIcpendrSpi word init data => Sys2Proof.Machine.execWrGicdIcpendrSpi word init data s
  | .rdGicdIsactiver0 init => Sys2Proof.Machine.execRdGicdIsactiver0 init s
  | .rdGicdIsactiverSpi word init => Sys2Proof.Machine.execRdGicdIsactiverSpi word init s
  | .rdGicdIcactiver0 init => Sys2Proof.Machine.execRdGicdIcactiver0 init s
  | .wrGicdIcactiver0 init data => Sys2Proof.Machine.execWrGicdIcactiver0 init data s
  | .rdGicdIcactiverSpi word init => Sys2Proof.Machine.execRdGicdIcactiverSpi word init s
  | .wrGicdIcactiverSpi word init data => Sys2Proof.Machine.execWrGicdIcactiverSpi word init data s
  | .rdGicdIpriorityrPriv first n init => Sys2Proof.Machine.execRdGicdIpriorityrPriv first n init s
  | .wrGicdIpriorityrPriv first n init data => Sys2Proof.Machine.execWrGicdIpriorityrPriv first n init data s
  | .rdGicdIpriorityrSpi first n init => Sys2Proof.Machine.execRdGicdIpriorityrSpi first n init s
  | .wrGicdIpriorityrSpi first n init data => Sys2Proof.Machine.execWrGicdIpriorityrSpi first n init data s
  | .rdGicdItargetsrPriv first n init => Sys2Proof.Machine.execRdGicdItargetsrPriv first n init s
  | .rdGicdItargetsrSpi first n init => Sys2Proof.Machine.execRdGicdItargetsrSpi first n init s
  | .wrGicdItargetsrSpi first n init data => Sys2Proof.Machine.execWrGicdItargetsrSpi first n init data s
  | .rdGicdIcfgr0 init => Sys2Proof.Machine.execRdGicdIcfgr0 init s
  | .rdGicdIcfgr1 init => Sys2Proof.Machine.execRdGicdIcfgr1 init s
  | .wrGicdIcfgr1 init data => Sys2Proof.Machine.execWrGicdIcfgr1 init data s
  | .rdGicdIcfgrSpi word init => Sys2Proof.Machine.execRdGicdIcfgrSpi word init s
  | .wrGicdIcfgrSpi word init data => Sys2Proof.Machine.execWrGicdIcfgrSpi word init data s
  | .wrGicdSgir init data => Sys2Proof.Machine.execWrGicdSgir init data s
  | .rdGicdCpendsgir first n init => Sys2Proof.Machine.execRdGicdCpendsgir first n init s
  | .wrGicdCpendsgir first n init data => Sys2Proof.Machine.execWrGicdCpendsgir first n init data s
  | .rdGicdSpendsgir first n init => Sys2Proof.Machine.execRdGicdSpendsgir first n init s
  | .wrGicdSpendsgir first n init data => Sys2Proof.Machine.execWrGicdSpendsgir first n init data s
  | .rdGiccCtlr init => Sys2Proof.Machine.execRdGiccCtlr init s
  | .wrGiccCtlr init data => Sys2Proof.Machine.execWrGiccCtlr init data s
  | .rdGiccPmr init => Sys2Proof.Machine.execRdGiccPmr init s
  | .wrGiccPmr init data => Sys2Proof.Machine.execWrGiccPmr init data s
  | .rdGiccBpr init => Sys2Proof.Machine.execRdGiccBpr init s
  | .wrGiccBpr init data => Sys2Proof.Machine.execWrGiccBpr init data s
  | .rdGiccIar init => Sys2Proof.Machine.execRdGiccIar init s
  | .wrGiccEoir init data => Sys2Proof.Machine.execWrGiccEoir init data s
  | .rdGiccRpr init => Sys2Proof.Machine.execRdGiccRpr init s
  | .rdGiccHppir init => Sys2Proof.Machine.execRdGiccHppir init s
  | .rdGiccAbpr init => Sys2Proof.Machine.execRdGiccAbpr init s
  | .wrGiccAbpr init data => Sys2Proof.Machine.execWrGiccAbpr init data s
  | .rdGicvCtlr init => Sys2Proof.Machine.execRdGicvCtlr init s
  | .wrGicvCtlr init data => Sys2Proof.Machine.execWrGicvCtlr init data s
  | .rdGicvPmr init => Sys2Proof.Machine.execRdGicvPmr init s
  | .wrGicvPmr init data => Sys2Proof.Machine.execWrGicvPmr init data s
  | .rdGicvBpr init => Sys2Proof.Machine.execRdGicvBpr init s
  | .wrGicvBpr init data => Sys2Proof.Machine.execWrGicvBpr init data s
  | .rdGicvIar init => Sys2Proof.Machine.execRdGicvIar init s
  | .wrGicvEoir init data => Sys2Proof.Machine.execWrGicvEoir init data s
  | .rdGicvRpr init => Sys2Proof.Machine.execRdGicvRpr init s
  | .rdGicvHppir init => Sys2Proof.Machine.execRdGicvHppir init s
  | .rdGicvAbpr init => Sys2Proof.Machine.execRdGicvAbpr init s
  | .wrGicvAbpr init data => Sys2Proof.Machine.execWrGicvAbpr init data s
  | .rdGichHcr init => Sys2Proof.Machine.execRdGichHcr init s
  | .wrGichHcr init data => Sys2Proof.Machine.execWrGichHcr init data s
  | .rdGichVtr init => Sys2Proof.Machine.execRdGichVtr init s
  | .rdGichVmcr init => Sys2Proof.Machine.execRdGichVmcr init s
  | .wrGichVmcr init data => Sys2Proof.Machine.execWrGichVmcr init data s
  | .rdGichApr init => Sys2Proof.Machine.execRdGichApr init s
  | .wrGichApr init data => Sys2Proof.Machine.execWrGichApr init data s
  | .rdGichLr ix init => Sys2Proof.Machine.execRdGichLr ix init s
  | .wrGichLr ix init data => Sys2Proof.Machine.execWrGichLr ix init data s
  | .lineLevel port value => Sys2Proof.Machine.execLineLevel port value s
  | .lineEdge port value => Sys2Proof.Machine.execLineEdge port value s
  | .reset => Sys2Proof.Machine.execReset s
  | .accessError key n init data => Sys2Proof.Machine.execAccessError key n init data s

end Sys2Proof.Machine
end

