-- ==== Sys2Proof/Machine/Step.lean ====
section
/-! DEFINITION. One step of the block: the oldest request is taken, decoded and performed. -/

namespace Sys2Proof.Machine

/-- One step (00_scope.md R6). With nothing delivered the block stays as it is: no state changes with the passage of
time (R455). An event for an input that does not exist is refused by name (R434).
Both are the model's (DESIGN CHOICE; unsafe: log 1; safe: log 6). -/
def step (s : State) : Host.Outcome State Fault Refusal :=
  match s.fetch with
  | none => .next s
  | some (r, s1) =>
    match s1.decodeRequest r with
    | .error (.noSuchInput port) => .refused (.noSuchInput port)
    | .ok i => exec i s1

/-- The state in which the access of a bare table word is the next request to be performed. -/
def State.withFetchWord (s : State) (_nbits w : Nat) : State := s.deliver (requestOfTableWord w)

end Sys2Proof.Machine
end

