-- ==== Sys2Proof/WellFormed.lean ====
section
/-! DEFINITION. Well-formed instructions: the operands an encoding of spec/ can hold. -/

namespace Sys2Proof

/-- A word index of an array of words `lo..hi` (R125, R127). -/
def wordOk (lo hi word : Nat) : Bool := decide (lo ≤ word) && decide (word ≤ hi)

/-- The first byte of an aligned access of `n` bytes inside the bytes `lo..hi` of a byte array (R84, R85, R126). -/
def bytesOk (lo hi first : Nat) (n : Width) : Bool :=
  decide (lo ≤ first) && decide (first ≤ hi) && first % n.bytes == 0

/-- The data of an `n`-byte write has `8n` bits (R81). -/
def dataOk (n : Width) (data : Word) : Bool := clip n data == data

/-- The instruction is one an encoding of a block with parameters `p` holds. -/
def Instr.wf (p : Params) : Instr → Bool
  | .rdGicdCtlr _ => true
  | .wrGicdCtlr _ _ => true
  | .rdGicdTyper _ => true
  | .rdGicdIsenabler0 _ => true
  | .wrGicdIsenabler0 _ _ => true
  | .rdGicdIsenablerSpi word _ => wordOk 1 15 word
  | .wrGicdIsenablerSpi word _ _ => wordOk 1 15 word
  | .rdGicdIcenabler0 _ => true
  | .wrGicdIcenabler0 _ _ => true
  | .rdGicdIcenablerSpi word _ => wordOk 1 15 word
  | .wrGicdIcenablerSpi word _ _ => wordOk 1 15 word
  | .rdGicdIspendr0 _ => true
  | .wrGicdIspendr0 _ _ => true
  | .rdGicdIspendrSpi word _ => wordOk 1 15 word
  | .wrGicdIspendrSpi word _ _ => wordOk 1 15 word
  | .rdGicdIcpendr0 _ => true
  | .wrGicdIcpendr0 _ _ => true
  | .rdGicdIcpendrSpi word _ => wordOk 1 15 word
  | .wrGicdIcpendrSpi word _ _ => wordOk 1 15 word
  | .rdGicdIsactiver0 _ => true
  | .rdGicdIsactiverSpi word _ => wordOk 1 15 word
  | .rdGicdIcactiver0 _ => true
  | .wrGicdIcactiver0 _ _ => true
  | .rdGicdIcactiverSpi word _ => wordOk 1 15 word
  | .wrGicdIcactiverSpi word _ _ => wordOk 1 15 word
  | .rdGicdIpriorityrPriv first n _ => bytesOk 0 31 first n
  | .wrGicdIpriorityrPriv first n _ data => bytesOk 0 31 first n && dataOk n data
  | .rdGicdIpriorityrSpi first n _ => bytesOk 32 511 first n
  | .wrGicdIpriorityrSpi first n _ data => bytesOk 32 511 first n && dataOk n data
  | .rdGicdItargetsrPriv first n _ => bytesOk 0 31 first n
  | .rdGicdItargetsrSpi first n _ => bytesOk 32 511 first n
  | .wrGicdItargetsrSpi first n _ data => bytesOk 32 511 first n && dataOk n data
  | .rdGicdIcfgr0 _ => true
  | .rdGicdIcfgr1 _ => true
  | .wrGicdIcfgr1 _ _ => true
  | .rdGicdIcfgrSpi word _ => wordOk 2 31 word
  | .wrGicdIcfgrSpi word _ _ => wordOk 2 31 word
  | .wrGicdSgir _ _ => true
  | .rdGicdCpendsgir first n _ => bytesOk 0 15 first n
  | .wrGicdCpendsgir first n _ data => bytesOk 0 15 first n && dataOk n data
  | .rdGicdSpendsgir first n _ => bytesOk 0 15 first n
  | .wrGicdSpendsgir first n _ data => bytesOk 0 15 first n && dataOk n data
  | .rdGiccCtlr _ => true
  | .wrGiccCtlr _ _ => true
  | .rdGiccPmr _ => true
  | .wrGiccPmr _ _ => true
  | .rdGiccBpr _ => true
  | .wrGiccBpr _ _ => true
  | .rdGiccIar _ => true
  | .wrGiccEoir _ _ => true
  | .rdGiccRpr _ => true
  | .rdGiccHppir _ => true
  | .rdGiccAbpr _ => true
  | .wrGiccAbpr _ _ => true
  | .rdGicvCtlr _ => true
  | .wrGicvCtlr _ _ => true
  | .rdGicvPmr _ => true
  | .wrGicvPmr _ _ => true
  | .rdGicvBpr _ => true
  | .wrGicvBpr _ _ => true
  | .rdGicvIar _ => true
  | .wrGicvEoir _ _ => true
  | .rdGicvRpr _ => true
  | .rdGicvHppir _ => true
  | .rdGicvAbpr _ => true
  | .wrGicvAbpr _ _ => true
  | .rdGichHcr _ => true
  | .wrGichHcr _ _ => true
  | .rdGichVtr _ => true
  | .rdGichVmcr _ => true
  | .wrGichVmcr _ _ => true
  | .rdGichApr _ => true
  | .wrGichApr _ _ => true
  | .rdGichLr _ _ => true
  | .wrGichLr _ _ _ => true
  | .lineLevel port _ => port.present p
  | .lineEdge port _ => port.present p
  | .reset => true
  | .accessError key n _ data => (accessErrorCause key n).isSome && laneData key n data == data

/-- The instruction is the row that a delivery selects under the trigger modes `trig` (R170): only the two LINE rows
depend on them. -/
def Instr.selectedBy (trig : Nat → Trigger) : Instr → Bool
  | .lineLevel port _ => trig port.irq == .level
  | .lineEdge port _ => trig port.irq == .edge
  | _ => true

end Sys2Proof
end

