-- ==== Sys2Proof/Safety.lean ====
section
/-! DEFINITION. The vocabulary of the claims: the invariants of the block, and the shapes in which a step's result and
its frame are stated. -/

namespace Sys2Proof.Machine

/-! ## Invariants -/

/-- CPU `c` sees the SGI `i` pending exactly when some source is recorded (10_state.md R36, 41_distributor.md R253). -/
def State.SgiSourcesMatch (s : State) : Prop :=
  ∀ (c : Cpu) (i : Fin 16), (maskAt s.store.pending i.val).getLsbD c.val = (s.sgiSources c i.val != 0#8)

/-- All eight bits of a mask are equal. -/
def Uniform (m : CpuMask) : Prop := m = 0#8 ∨ m = allCpus

/-- All eight bits of each of the five masks of an SPI are equal (10_state.md R34). -/
def State.SpiMasksUniform (s : State) : Prop :=
  ∀ irq : Irq, nPriv ≤ irq.val →
    Uniform (maskAt s.store.enabled irq.val) ∧ Uniform (maskAt s.store.pending irq.val) ∧
      Uniform (maskAt s.store.active irq.val) ∧ Uniform (maskAt s.store.level irq.val) ∧
      Uniform (maskAt s.store.signaled irq.val)

/-- Every list register is what its last written word says, but for the live pending and active bits (R322, R323);
so its priority is a multiple of 8 and its unused ID field is 0 (R44, R136, R137). -/
def State.ListRegsFaithful (s : State) : Prop :=
  ∀ (c : Cpu) (i : LrIx), (s.virtIf c).listReg i =
    { listRegOfWord ((s.virtIf c).listReg i).raw with
      pending := ((s.virtIf c).listReg i).pending, active := ((s.virtIf c).listReg i).active }

/-- The virtual running priority is the one the active-priority bitmask encodes (R330, R333, R366, R370). -/
def State.VirtualPriorityFaithful (s : State) : Prop :=
  ∀ c : Cpu, (s.virtIf c).rpr = aprPrio s.params.aprSelect (s.virtIf c).apr

/-- A CPU that is not connected keeps the reset values of the arbiter's results (45_arbitration.md R400). -/
def State.UnconnectedQuiet (s : State) : Prop :=
  ∀ c : Cpu, s.params.numCpu ≤ c.val → s.arbOut c = ArbOut.reset

/-- An ID that is not implemented has every mask, its priority and its targets at 0, and no CPU has it selected
(00_scope.md R10, 45_arbitration.md R401). -/
def State.UnimplementedQuiet (s : State) : Prop :=
  ∀ irq : Irq, s.params.nimpl ≤ irq.val →
    maskAt s.store.enabled irq.val = 0#8 ∧ maskAt s.store.pending irq.val = 0#8 ∧
      maskAt s.store.active irq.val = 0#8 ∧ maskAt s.store.level irq.val = 0#8 ∧
      maskAt s.store.signaled irq.val = 0#8 ∧ tabGet s.prioSpi (irq.val - 32) = 0#8 ∧ s.targets irq.val = 0#8 ∧
      ∀ c : Cpu, (s.arbOut c).hppir ≠ some irq

/-- A CPU with an empty preemption stack runs at IDLE_PRIO (42_cpu_interface.md R282, R291). -/
def State.IdleWhenEmpty (s : State) : Prop := ∀ c : Cpu, (s.cpuIf c).stk = [] → (s.cpuIf c).rpr = idlePrio

/-- The arbiter's results are those of the present state: an UPDATE would change nothing (R409). -/
def State.Arbitrated (s : State) : Prop := update s = s

/-! ## Shapes of results -/

/-- The step is a read that answers a word whose bit `b` is `f b`, and changes nothing else. -/
def ReadsBits (i : Instr) (init : Nat) (s : State) (f : Nat → Bool) : Prop :=
  ∃ v : Word, exec i s = .next (s.respond init (.okData v) []) ∧ ∀ b : Nat, b < 32 → v.getLsbD b = f b

/-- The step is an `n`-byte read that answers data whose byte `k` is `f k` and changes nothing else. -/
def ReadsBytes (i : Instr) (n : Width) (init : Nat) (s : State) (f : Nat → Byte) : Prop :=
  ∃ v : Word, exec i s = .next (s.respond init (.okData v) []) ∧
    ∀ k : Nat, k < 4 → v.extractLsb' (8 * k) 8 = if k < n.bytes then f k else 0#8

/-- The step is an accepted write that changes the interrupt state store as `P` says, then re-arbitrates, and changes
nothing else. -/
def WritesStore (i : Instr) (init : Nat) (s : State) (P : Store → Prop) : Prop :=
  ∃ st : Store, exec i s = .next ((update { s with store := st }).respond init .ok []) ∧ P st

/-- A write of `data` to word `word` of a one-bit-per-ID register acts on ID `irq` (R125): the ID is in the word, its
bit is 1, and it is implemented. -/
def wordSelects (p : Params) (word : Nat) (data : Word) (irq : Nat) : Bool :=
  decide (irq / 32 = word) && data.getLsbD (irq % 32) && p.impl irq

/-- `t` is the mask table `t0`, but at ID `irq` it is `m`. -/
def TableWith (t0 t : Vector CpuMask 512) (irq : Nat) (m : CpuMask) : Prop :=
  ∀ j : Irq, maskAt t j.val = if j.val = irq then m else maskAt t0 j.val

/-- `st` is `st0` after DEACTIVATE(irq, m) (R284): active and signaled lose the bits of `m`, a level-triggered
interrupt whose line is high becomes pending, and nothing else changes. -/
def Deactivated (st0 st : Store) (irq : Nat) (m : CpuMask) : Prop :=
  TableWith st0.active st.active irq (maskAt st0.active irq &&& ~~~m) ∧
  TableWith st0.signaled st.signaled irq (maskAt st0.signaled irq &&& ~~~m) ∧
  TableWith st0.pending st.pending irq
    (if st0.triggerOf irq = .level ∧ maskAt st0.level irq &&& m ≠ 0#8 then maskAt st0.pending irq ||| m
      else maskAt st0.pending irq) ∧
  st.enabled = st0.enabled ∧ st.level = st0.level ∧ st.trigger = st0.trigger

/-- ID `irq` can be selected for CPU `c` (R401, with R10). -/
def Candidate (s : State) (c : Cpu) (irq : Irq) : Prop :=
  irq.val < s.params.nimpl ∧
  maskAt s.store.enabled irq.val &&& maskFor irq.val c ≠ 0#8 ∧
  maskAt s.store.pending irq.val &&& maskFor irq.val c ≠ 0#8 ∧
  maskAt s.store.active irq.val &&& maskFor irq.val c = 0#8 ∧
  (nPriv ≤ irq.val → (s.targets irq.val).getLsbD c.val = true)

/-- List register `i` can be selected (R407). -/
def VirtualCandidate (v : VirtIf) (i : LrIx) : Prop :=
  (v.listReg i).pending = true ∧ (v.listReg i).active = false

/-- `j` is the lowest bit set in `m` (R14). -/
def LowestBit (m : CpuMask) (j : Nat) : Prop := m.getLsbD j = true ∧ ∀ k : Nat, k < j → m.getLsbD k = false

end Sys2Proof.Machine
end

