-- ==== Sys2Proof/Certificates/Slice0/Obligations.lean ====
section
/-! DEFINITION. The statements for the provers. -/

open Sys2Proof Sys2Proof.Machine

/-! ## Decoding and encoding -/

/-- R112, R110, R111: decoding the encoding of a well-formed instruction gives it back, with every operand. The second
premise is R170's: a LINE row is the one its trigger mode selects. -/
def Obligations.DecodeEncodeRoundTrip : Prop :=
  ∀ (p : Params) (trig : Nat → Trigger) (i : Instr), i.wf p = true → i.selectedBy trig = true →
    decode p trig (encode i) = .ok i

/-- Whatever a request decodes to is well-formed, is the row the trigger modes select, and encodes to that request
with only the data its access carries: decoding drops nothing (R81, R112, R170). -/
def Obligations.DecodedIsWellFormedAndReencodes : Prop :=
  ∀ (p : Params) (trig : Nat → Trigger) (r : Request) (i : Instr), decode p trig r = .ok i →
    i.wf p = true ∧ i.selectedBy trig = true ∧ encode i = r.canonical

/-- R112: "Rows are ordered so that no two register rows overlap". -/
def Obligations.RegisterRowsDoNotOverlap : Prop :=
  ∀ (key : BitVec 16) (n : Width), (rows.filter (fun r => r.accepts key n)).length ≤ 1

/-- R86, R112: an access falls to the catch-all row exactly when one of the five conditions of R86 holds of it, read
from the register maps R120 to R123. -/
def Obligations.CatchAllIffAccessErrorCause : Prop :=
  ∀ (key : BitVec 16) (n : Width), selectRow key n = none ↔ (accessErrorCause key n).isSome = true

/-- A few keys written out from R110 and the maps R120 to R123 decode to the rows they stand for. -/
def Obligations.KnownKeysDecode : Prop :=
  decodeBus 0x2428#16 .w1 0 0x80#32 = .wrGicdIpriorityrSpi 40 .w1 0 0x80#32 ∧
  decodeBus 0x2104#16 .w4 3 0x100#32 = .wrGicdIsenablerSpi 1 3 0x100#32 ∧
  decodeBus 0x400C#16 .w4 1 0#32 = .rdGiccIar 1 ∧
  decodeBus 0xA108#16 .w4 0 0x10000C05#32 = .wrGichLr 2 0 0x10000C05#32 ∧
  decodeBus 0xE010#16 .w4 0 0x25#32 = .wrGicvEoir 0 0x25#32 ∧
  decodeBus 0x0008#16 .w4 0 0#32 = .accessError 0x0008#16 .w4 0 0#32 ∧
  decodeBus 0x0422#16 .w4 0 0#32 = .accessError 0x0422#16 .w4 0 0#32

/-! ## Steps -/

/-- A step performs the instruction its request decodes to (R112, R170) on the state without that request. That delivered
requests stand in an inbox and that a step takes the oldest one is the model's choice (log entry 1). -/
def Obligations.StepRunsDecodedInstruction : Prop :=
  ∀ (s : State) (r : Request) (i : Instr), decode s.params s.store.triggerOf r = .ok i →
    step (s.deliver r) = exec i s

/-- The model's choices (log entries 1 and 6): with nothing delivered a step leaves the state as it is, and an event
for an input the block does not have is refused by name. -/
def Obligations.StepWithoutDeliverableRequest : Prop :=
  (∀ s : State, s.inbox = [] → step s = .next s) ∧
  (∀ (s : State) (port : Port) (v : Bool), port.present s.params = false →
    step (s.deliver (.line port v)) = .refused (.noSuchInput port))

/-- R86, R431: an access error ends in ERROR, or, under RAZ_WI, in OK with data 0 for a read; no state changes and
UPDATE does not run. So does the row ACCESS_ERROR whatever access it stands for. Which cause the diagnostic names inside a
register, and where it stands among the diagnostics, are the model's choices (log entries 8 and 17). -/
def Obligations.AccessErrorChangesNoState : Prop :=
  ∀ (s : State) (key : BitVec 16) (n : Width) (init : Nat) (data : Word) (resp : Response),
    resp = (if s.params.accessErrorPolicy = .error then .error
      else if keyDir key = .read then .okData 0#32 else .ok) →
    (∀ code : AccessErrorCode, accessErrorCause key n = some code →
      step (s.deliver (.bus key n init data)) = .next (s.respond init resp [.accessError code])) ∧
    (∃ diag : List Diag, exec (.accessError key n init data) s = .next (s.respond init resp diag))

/-- R87: every read but that of GICC_IAR (key 0x400C) and GICV_IAR (key 0xC00C) changes nothing but what the step
gives the outside. -/
def Obligations.OnlyIarReadsHaveSideEffects : Prop :=
  ∀ (s : State) (key : BitVec 16) (n : Width) (init : Nat) (data : Word),
    keyDir key = .read → key ≠ 0x400C#16 → key ≠ 0xC00C#16 →
    ∃ (resp : Response) (diag : List Diag),
      step (s.deliver (.bus key n init data)) = .next (s.respond init resp diag)

/-- R462: an access whose initiator is not connected is performed exactly as if CPU 0 had made it; the diagnostic is
the only difference. That it stands first among the diagnostics is the model's choice (log entry 17). -/
def Obligations.UnmappedInitiatorActsAsCpuZero : Prop :=
  ∀ (s : State) (key : BitVec 16) (n : Width) (init : Nat) (data : Word), s.params.numCpu ≤ init →
    ∃ (t : State) (resp : Response) (diag : List Diag),
      step (s.deliver (.bus key n 0 data)) = .next (t.setOut (some resp) diag) ∧
      step (s.deliver (.bus key n init data)) = .next (t.setOut (some resp) (.accessFromUnmappedCpu init :: diag))

/-- R9, R10, R435: elaboration succeeds exactly for the parameters the spec allows, and then gives the block after its
first reset; otherwise construction is aborted. -/
def Obligations.ConstructionChecksParameters : Prop :=
  ∀ (numCpu numSpi : Nat) (policy : AccessErrorPolicy) (edgeGated icactiverUpdates : Bool) (sel : AprSelect)
    (bases : WindowBases),
    (1 ≤ numCpu ∧ numCpu ≤ 8 ∧ numSpi ≤ 480 →
      ∃ p : Params, p.numCpu = numCpu ∧ p.numSpi = numSpi ∧ p.accessErrorPolicy = policy ∧
        p.edgeGatedBySignaled = edgeGated ∧ p.icactiverPpiUpdates = icactiverUpdates ∧ p.aprSelect = sel ∧
        p.bases = bases ∧
        construct numCpu numSpi policy edgeGated icactiverUpdates sel bases = .next (State.resetWith p)) ∧
    (¬(1 ≤ numCpu ∧ numCpu ≤ 8 ∧ numSpi ≤ 480) →
      ∃ e : ConfigError, construct numCpu numSpi policy edgeGated icactiverUpdates sel bases = .fault (.configuration e))

/-! ## Reset -/

/-- R31, R32, R36 to R47, R480: what reset leaves, entry by entry. -/
def Obligations.ResetLeavesSpecValues : Prop :=
  ∀ p : Params,
    (∀ irq : Irq, maskAt (State.resetWith p).store.enabled irq.val = 0#8 ∧
      maskAt (State.resetWith p).store.pending irq.val = 0#8 ∧
      maskAt (State.resetWith p).store.active irq.val = 0#8 ∧
      maskAt (State.resetWith p).store.level irq.val = 0#8 ∧
      maskAt (State.resetWith p).store.signaled irq.val = 0#8 ∧
      (State.resetWith p).store.triggerOf irq.val = (if irq.val < 16 then .edge else .level) ∧
      (∀ c : Cpu, (State.resetWith p).prio irq.val c = 0x00#8) ∧
      (32 ≤ irq.val → (State.resetWith p).targets irq.val = 0x00#8)) ∧
    (State.resetWith p).dctlr = 0#2 ∧
    (∀ (c : Cpu) (i : Fin 16), (State.resetWith p).sgiSources c i.val = 0#8) ∧
    (∀ c : Cpu, (State.resetWith p).cpuIf c =
      { ctlr := 0#2, pmr := 0x00#8, bpr := 0x2#3, abpr := 0x3#3, rpr := 0xff#8, stk := [] }) ∧
    (∀ (c : Cpu) (i : LrIx), ((State.resetWith p).virtIf c).listReg i =
      { pending := false, active := false, hw := false, prio := 0#8, virtualId := 0#10, physicalId := 0#10,
        cpuId := 0#3, raw := 0#32 }) ∧
    (∀ c : Cpu, ((State.resetWith p).virtIf c).hcr = 0#1 ∧ ((State.resetWith p).virtIf c).apr = 0#32 ∧
      ((State.resetWith p).virtIf c).ctlr = 0#2 ∧ ((State.resetWith p).virtIf c).pmr = 0x00#8 ∧
      ((State.resetWith p).virtIf c).bpr = 0x2#3 ∧ ((State.resetWith p).virtIf c).abpr = 0x3#3 ∧
      ((State.resetWith p).virtIf c).rpr = 0xff#8) ∧
    (∀ c : Cpu, (State.resetWith p).arbOut c =
      { hppir := none, irqOut := false, vhppir := none, virqOut := false })

/-- R480: the RESET step installs the reset values from every state, and the UPDATE that ends it leaves them; the
parameters stay. That requests still to be performed stay too, and that the step has no response, are the model's
choices (log entries 1, 2 and 14). -/
def Obligations.ResetStepInstallsResetState : Prop :=
  ∀ s : State, exec .reset s = .next { State.resetWith s.params with inbox := s.inbox }

/-! ## The interrupt state store -/

/-- R161, R164: each mutator writes its own mask of its own ID and nothing else, and nothing at all for an ID out of
range. R163: SET_TRIGGER sets the trigger mode of its ID, has no effect on an SGI, which is always EDGE, and changes no
mask. -/
def Obligations.StoreMutatorsWriteOneEntry : Prop :=
  (∀ (t : Vector CpuMask 512) (irq : Nat) (v : Bool) (m : CpuMask) (j : Nat),
    maskAt (setMask t irq v m) j =
      if j = irq ∧ irq < 512 then (if v then maskAt t irq ||| m else maskAt t irq &&& ~~~m) else maskAt t j) ∧
  (∀ (st : Store) (irq : Nat) (v : Bool) (m : CpuMask),
    st.setEnabled irq v m = { st with enabled := setMask st.enabled irq v m } ∧
    st.setPending irq v m = { st with pending := setMask st.pending irq v m } ∧
    st.setActive irq v m = { st with active := setMask st.active irq v m } ∧
    st.setLevel irq v m = { st with level := setMask st.level irq v m } ∧
    st.setSignaled irq v m = { st with signaled := setMask st.signaled irq v m } ∧
    st.enable irq m = st.setEnabled irq true m ∧ st.disable irq m = st.setEnabled irq false m) ∧
  (∀ (st : Store) (irq : Irq) (mode : Trigger),
    (∀ j : Irq, (st.setTrigger irq.val mode).triggerOf j.val =
      if j.val < 16 then .edge else if j = irq then mode else st.triggerOf j.val) ∧
    st.setTrigger irq.val mode = { st with trigger := (st.setTrigger irq.val mode).trigger })

/-- R162, R164: a predicate is true exactly when some bit its mask selects is set, and false for an ID out of range. -/
def Obligations.StorePredicatesTestAnyBit : Prop :=
  ∀ (st : Store) (irq : Nat) (m : CpuMask),
    (st.isEnabled irq m = true ↔ ∃ b : Nat, m.getLsbD b = true ∧ (maskAt st.enabled irq).getLsbD b = true) ∧
    (st.isPending irq m = true ↔ ∃ b : Nat, m.getLsbD b = true ∧ (maskAt st.pending irq).getLsbD b = true) ∧
    (st.isActive irq m = true ↔ ∃ b : Nat, m.getLsbD b = true ∧ (maskAt st.active irq).getLsbD b = true) ∧
    (st.isLevel irq m = true ↔ ∃ b : Nat, m.getLsbD b = true ∧ (maskAt st.level irq).getLsbD b = true) ∧
    (st.isSignaled irq m = true ↔ ∃ b : Nat, m.getLsbD b = true ∧ (maskAt st.signaled irq).getLsbD b = true) ∧
    (512 ≤ irq → maskAt st.enabled irq = 0#8 ∧ maskAt st.pending irq = 0#8 ∧ maskAt st.active irq = 0#8 ∧
      maskAt st.level irq = 0#8 ∧ maskAt st.signaled irq = 0#8)

/-- R165: the laws of the store. -/
def Obligations.StoreLaws : Prop :=
  ∀ (t : Vector CpuMask 512) (irq : Nat) (v : Bool) (m : CpuMask),
    setMask (setMask t irq v m) irq v m = setMask t irq v m ∧
    (irq < 512 →
      maskAt (setMask (setMask t irq true m) irq false m) irq &&& ~~~m = maskAt t irq &&& ~~~m ∧
      maskAt (setMask (setMask t irq true m) irq false m) irq &&& m = 0#8) ∧
    (setMask (setMask t irq true m) irq false m = t ↔ 512 ≤ irq ∨ maskAt t irq &&& m = 0#8) ∧
    (∀ (irq' : Nat) (v' : Bool) (m' : CpuMask), irq ≠ irq' ∨ m &&& m' = 0#8 →
      setMask (setMask t irq v m) irq' v' m' = setMask (setMask t irq' v' m') irq v m)

/-! ## Arbitration -/

/-- R400, R409: UPDATE writes only the arbiter's results, reads none of them, changes nothing when run again, and
leaves an unconnected CPU's results alone. -/
def Obligations.UpdateIsAFunctionOfTheOtherState : Prop :=
  ∀ s : State,
    update s = { s with arb := (update s).arb } ∧
    update (update s) = update s ∧
    (∀ (a : Vector ArbOut 8) (c : Cpu), c.val < s.params.numCpu →
      (update { s with arb := a }).arbOut c = (update s).arbOut c) ∧
    (∀ c : Cpu, s.params.numCpu ≤ c.val → (update s).arbOut c = s.arbOut c)

/-- R401 to R404: for a connected CPU, UPDATE makes hppir the candidate with the least (priority, ID), if the
distributor and the CPU interface are enabled and that priority is strictly better than pmr; otherwise no interrupt. -/
def Obligations.UpdateSelectsBestPhysicalCandidate : Prop :=
  ∀ (s : State) (c : Cpu) (irq : Irq), c.val < s.params.numCpu →
    (((update s).arbOut c).hppir = some irq ↔
      s.dctlr ≠ 0#2 ∧ (s.cpuIf c).ctlr ≠ 0#2 ∧ Candidate s c irq ∧
      (∀ j : Irq, Candidate s c j →
        (s.prio irq.val c).toNat < (s.prio j.val c).toNat ∨
          (s.prio irq.val c = s.prio j.val c ∧ irq.val ≤ j.val)) ∧
      (s.prio irq.val c).toNat < (s.cpuIf c).pmr.toNat)

/-- R406 to R410: for a connected CPU, UPDATE makes vhppir the pending and not active list register with the least
(priority, index), if the virtual domain is enabled and that priority is strictly better than vpmr; otherwise NONE. -/
def Obligations.UpdateSelectsBestListRegister : Prop :=
  ∀ (s : State) (c : Cpu) (i : LrIx), c.val < s.params.numCpu →
    (((update s).arbOut c).vhppir = some i ↔
      (s.virtIf c).hcr = 1#1 ∧ (s.virtIf c).ctlr ≠ 0#2 ∧ VirtualCandidate (s.virtIf c) i ∧
      (∀ j : LrIx, VirtualCandidate (s.virtIf c) j →
        ((s.virtIf c).listReg i).prio.toNat < ((s.virtIf c).listReg j).prio.toNat ∨
          (((s.virtIf c).listReg i).prio = ((s.virtIf c).listReg j).prio ∧ i.val ≤ j.val)) ∧
      ((s.virtIf c).listReg i).prio.toNat < (s.virtIf c).pmr.toNat)

/-- R405, R411: after UPDATE a connected CPU's line is high exactly when its IAR read would acknowledge an interrupt
now, that is, when the read does not answer 1023 with nothing changed. -/
def Obligations.OutputLineHighIffAcknowledgeSucceeds : Prop :=
  ∀ (s : State) (c : Cpu), c.val < s.params.numCpu →
    ((update s).irqOut c = false ↔
      exec (.rdGiccIar c.val) (update s) = .next ((update s).respond c.val (.okData 1023#32) [])) ∧
    ((update s).virqOut c = false ↔
      exec (.rdGicvIar c.val) (update s) = .next ((update s).respond c.val (.okData 1023#32) []))

/-! ## The distributor -/

/-- R201, R260 with R130 and R131: GICD_CTLR and GICD_TYPER. -/
def Obligations.DistributorControlAndType : Prop :=
  ∀ (s : State) (init : Nat) (data : Word),
    exec (.rdGicdCtlr init) s = .next (s.respond init (.okData (s.dctlr.setWidth 32)) []) ∧
    exec (.wrGicdCtlr init data) s = .next ((update { s with dctlr := data.setWidth 2 }).respond init .ok []) ∧
    (∃ v : Word, exec (.rdGicdTyper init) s = .next (s.respond init (.okData v) []) ∧
      v.toNat = ((s.params.nimpl + 31) / 32 - 1) + 32 * (s.params.numCpu - 1))

/-- R202, R203, R210, R211, R220, R223 with R125: what the one-bit-per-ID registers read. -/
def Obligations.OneBitRegistersRead : Prop :=
  ∀ (s : State) (init word : Nat),
    (∀ i : Instr,
      (word = 0 ∧ (i = .rdGicdIsenabler0 init ∨ i = .rdGicdIcenabler0 init)) ∨
        i = .rdGicdIsenablerSpi word init ∨ i = .rdGicdIcenablerSpi word init →
      ReadsBits i init s (fun b => s.params.impl (32 * word + b) &&
        s.store.isEnabled (32 * word + b) (maskFor (32 * word + b) (s.current init)))) ∧
    (∀ i : Instr,
      (word = 0 ∧ (i = .rdGicdIspendr0 init ∨ i = .rdGicdIcpendr0 init)) ∨
        i = .rdGicdIspendrSpi word init ∨ i = .rdGicdIcpendrSpi word init →
      ReadsBits i init s (fun b => s.params.impl (32 * word + b) &&
        s.store.isPending (32 * word + b) (maskFor (32 * word + b) (s.current init)))) ∧
    (∀ i : Instr,
      (word = 0 ∧ (i = .rdGicdIsactiver0 init ∨ i = .rdGicdIcactiver0 init)) ∨
        i = .rdGicdIsactiverSpi word init ∨ i = .rdGicdIcactiverSpi word init →
      ReadsBits i init s (fun b => s.params.impl (32 * word + b) &&
        s.store.isActive (32 * word + b) (maskFor (32 * word + b) (s.current init))))

/-- R202: an ISENABLER write enables every selected ID for the CPUs its mask names, and makes a level-triggered one
whose line is high pending. R203: an ICENABLER write disables every selected ID for the CPUs its mask names. Nothing
else changes before the UPDATE. -/
def Obligations.EnableWritesWithLevelCatchUp : Prop :=
  ∀ (s : State) (init word : Nat) (data : Word) (i : Instr),
    ((word = 0 ∧ i = .wrGicdIsenabler0 init data) ∨ i = .wrGicdIsenablerSpi word init data →
      WritesStore i init s (fun st =>
        (∀ irq : Irq, maskAt st.enabled irq.val =
          if wordSelects s.params word data irq.val then
            maskAt s.store.enabled irq.val ||| maskFor irq.val (s.current init)
          else maskAt s.store.enabled irq.val) ∧
        (∀ irq : Irq, maskAt st.pending irq.val =
          if wordSelects s.params word data irq.val = true ∧ s.store.triggerOf irq.val = .level ∧
              maskAt s.store.level irq.val &&& maskFor irq.val (s.current init) ≠ 0#8 then
            maskAt s.store.pending irq.val ||| maskFor irq.val (s.current init)
          else maskAt s.store.pending irq.val) ∧
        st.active = s.store.active ∧ st.level = s.store.level ∧ st.signaled = s.store.signaled ∧
        st.trigger = s.store.trigger)) ∧
    ((word = 0 ∧ i = .wrGicdIcenabler0 init data) ∨ i = .wrGicdIcenablerSpi word init data →
      WritesStore i init s (fun st =>
        (∀ irq : Irq, maskAt st.enabled irq.val =
          if wordSelects s.params word data irq.val then
            maskAt s.store.enabled irq.val &&& ~~~(maskFor irq.val (s.current init))
          else maskAt s.store.enabled irq.val) ∧
        st = { s.store with enabled := st.enabled }))

/-- R210, R211: an ISPENDR write sets and an ICPENDR write clears the pending bits of every selected ID that is no
SGI; nothing else changes before the UPDATE. -/
def Obligations.PendingWritesSpareSgis : Prop :=
  ∀ (s : State) (init word : Nat) (data : Word) (i : Instr) (v : Bool),
    (word = 0 ∧ v = true ∧ i = .wrGicdIspendr0 init data) ∨ (v = true ∧ i = .wrGicdIspendrSpi word init data) ∨
      (word = 0 ∧ v = false ∧ i = .wrGicdIcpendr0 init data) ∨
      (v = false ∧ i = .wrGicdIcpendrSpi word init data) →
    WritesStore i init s (fun st =>
      (∀ irq : Irq, maskAt st.pending irq.val =
        if wordSelects s.params word data irq.val = true ∧ 16 ≤ irq.val then
          (if v then maskAt s.store.pending irq.val ||| maskFor irq.val (s.current init)
            else maskAt s.store.pending irq.val &&& ~~~(maskFor irq.val (s.current init)))
        else maskAt s.store.pending irq.val) ∧
      st.enabled = s.store.enabled ∧ st.active = s.store.active ∧ st.level = s.store.level ∧
      st.signaled = s.store.signaled ∧ st.trigger = s.store.trigger)

/-- R222: an ICACTIVER write clears the active bits of every selected ID and nothing else; words 1..15 re-arbitrate,
word 0 only under ICACTIVER_PPI_UPDATES. -/
def Obligations.IcactiverWriteClearsActive : Prop :=
  ∀ (s : State) (init word : Nat) (data : Word),
    ∃ st0 st : Store,
      exec (.wrGicdIcactiver0 init data) s =
        .next ((if s.params.icactiverPpiUpdates then update { s with store := st0 }
          else { s with store := st0 }).respond init .ok []) ∧
      exec (.wrGicdIcactiverSpi word init data) s =
        .next ((update { s with store := st }).respond init .ok []) ∧
      (∀ irq : Irq, maskAt st0.active irq.val =
        if wordSelects s.params 0 data irq.val then
          maskAt s.store.active irq.val &&& ~~~(maskFor irq.val (s.current init))
        else maskAt s.store.active irq.val) ∧
      (∀ irq : Irq, maskAt st.active irq.val =
        if wordSelects s.params word data irq.val then
          maskAt s.store.active irq.val &&& ~~~(maskFor irq.val (s.current init))
        else maskAt s.store.active irq.val) ∧
      st0 = { s.store with active := st0.active } ∧ st = { s.store with active := st.active }

/-- R224, R227, R228, R250 with R83 and R126: what the byte-array registers read. That the response word is 0 above the
width of the read is the model's choice (log entry 10). -/
def Obligations.ByteRegistersRead : Prop :=
  ∀ (s : State) (first : Nat) (n : Width) (init : Nat),
    (∀ i : Instr, i = .rdGicdIpriorityrPriv first n init ∨ i = .rdGicdIpriorityrSpi first n init →
      ReadsBytes i n init s (fun k =>
        if first + k < s.params.nimpl then s.prio (first + k) (s.current init) else 0#8)) ∧
    ReadsBytes (.rdGicdItargetsrPriv first n init) n init s (fun _ => 1#8 <<< (s.current init).val) ∧
    ReadsBytes (.rdGicdItargetsrSpi first n init) n init s (fun k =>
      if first + k < s.params.nimpl then s.targets (first + k) else 0#8) ∧
    (∀ i : Instr, i = .rdGicdCpendsgir first n init ∨ i = .rdGicdSpendsgir first n init →
      ReadsBytes i n init s (fun k => s.sgiSources (s.current init) (first + k)))

/-- R225, R226, R229: a priority write sets the bytes it covers, the current CPU's copy for IDs below 32, the one copy
of an implemented SPI above; a target write sets the target bytes of the implemented SPIs it covers. All 8 bits of a
byte are kept, and nothing else changes before the UPDATE. -/
def Obligations.PriorityAndTargetWrites : Prop :=
  ∀ (s : State) (first : Nat) (n : Width) (init : Nat) (data : Word),
    (∃ t : Vector (Vector Prio 32) 8,
      exec (.wrGicdIpriorityrPriv first n init data) s =
        .next ((update { s with prioPriv := t }).respond init .ok []) ∧
      ∀ (d : Cpu) (irq : Fin 32), bankGet t d irq.val =
        if d = s.current init ∧ first ≤ irq.val ∧ irq.val < first + n.bytes then
          data.extractLsb' (8 * (irq.val - first)) 8
        else bankGet s.prioPriv d irq.val) ∧
    (∃ t : Vector Prio 480,
      exec (.wrGicdIpriorityrSpi first n init data) s =
        .next ((update { s with prioSpi := t }).respond init .ok []) ∧
      ∀ x : Fin 480, tabGet t x.val =
        if first ≤ x.val + 32 ∧ x.val + 32 < first + n.bytes ∧ x.val + 32 < s.params.nimpl then
          data.extractLsb' (8 * (x.val + 32 - first)) 8
        else tabGet s.prioSpi x.val) ∧
    (∃ t : Vector CpuMask 480,
      exec (.wrGicdItargetsrSpi first n init data) s =
        .next ((update { s with itargets := t }).respond init .ok []) ∧
      ∀ x : Fin 480, tabGet t x.val =
        if first ≤ x.val + 32 ∧ x.val + 32 < first + n.bytes ∧ x.val + 32 < s.params.nimpl then
          data.extractLsb' (8 * (x.val + 32 - first)) 8
        else tabGet s.itargets x.val)

/-- R240: an ICFGR word reads 0b10 for an implemented EDGE ID and 0b00 otherwise; ICFGR0 reads 0xAAAAAAAA. -/
def Obligations.IcfgrRead : Prop :=
  ∀ (s : State) (init word : Nat),
    (∀ i : Instr, (word = 0 ∧ i = .rdGicdIcfgr0 init) ∨ (word = 1 ∧ i = .rdGicdIcfgr1 init) ∨
        i = .rdGicdIcfgrSpi word init →
      ∃ v : Word, exec i s = .next (s.respond init (.okData v) []) ∧
        ∀ k : Fin 16, v.extractLsb' (2 * k.val) 2 =
          if 16 * word + k.val < s.params.nimpl ∧ s.store.triggerOf (16 * word + k.val) = .edge then 2#2
          else 0#2) ∧
    exec (.rdGicdIcfgr0 init) s = .next (s.respond init (.okData 0xAAAAAAAA#32) [])

/-- R241 with R127: an ICFGR write makes each implemented ID of its word EDGE for the field 0b10 and LEVEL for any
other; nothing else changes before the UPDATE, and no SGI changes. -/
def Obligations.IcfgrWriteSetsTriggers : Prop :=
  ∀ (s : State) (init word : Nat) (data : Word) (i : Instr),
    (word = 1 ∧ i = .wrGicdIcfgr1 init data) ∨ i = .wrGicdIcfgrSpi word init data →
    WritesStore i init s (fun st =>
      (∀ irq : Irq, st.triggerOf irq.val =
        if irq.val / 16 = word ∧ 16 ≤ irq.val ∧ irq.val < s.params.nimpl then
          (if data.extractLsb' (2 * (irq.val % 16)) 2 = 2#2 then .edge else .level)
        else s.store.triggerOf irq.val) ∧
      st = { s.store with trigger := st.trigger })

/-- R230, R231: an SGIR write records the writing CPU as a source of the SGI on every target and makes it pending
there; filter 3 is ignored. Nothing else changes before the UPDATE. -/
def Obligations.SgirRaisesOnTargets : Prop :=
  ∀ (s : State) (init : Nat) (data : Word),
    (data.extractLsb' 24 2 = 3#2 →
      exec (.wrGicdSgir init data) s = .next (s.respond init .ok [.unrecognizedSgiFilter])) ∧
    (data.extractLsb' 24 2 ≠ 3#2 →
      ∃ (st : Store) (src : Vector (Vector CpuMask 16) 8) (T : Cpu → Bool),
        (∀ t : Cpu, T t =
          if data.extractLsb' 24 2 = 0#2 then data.getLsbD (16 + t.val) && decide (t.val < s.params.numCpu)
          else if data.extractLsb' 24 2 = 1#2 then decide (t.val < s.params.numCpu) && decide (t ≠ s.current init)
          else decide (t = s.current init)) ∧
        exec (.wrGicdSgir init data) s =
          .next ((update { s with store := st, sgiSrc := src }).respond init .ok []) ∧
        (∀ (t : Cpu) (i : Fin 16), bankGet src t i.val =
          if T t = true ∧ i.val = (data.setWidth 4).toNat then
            s.sgiSources t i.val ||| (1#8 <<< (s.current init).val)
          else s.sgiSources t i.val) ∧
        (∀ (irq : Irq) (t : Cpu), (maskAt st.pending irq.val).getLsbD t.val =
          if T t = true ∧ irq.val = (data.setWidth 4).toNat then true
          else (maskAt s.store.pending irq.val).getLsbD t.val) ∧
        st = { s.store with pending := st.pending })

/-- R251, R252: a SPENDSGIR write adds and a CPENDSGIR write removes the sources its bytes name on the current CPU, and
the SGI is then pending there exactly when a source is left; nothing else changes before the UPDATE. -/
def Obligations.SgiSourceWritesKeepPendingInStep : Prop :=
  ∀ (s : State) (first : Nat) (n : Width) (init : Nat) (data : Word) (i : Instr) (v : Bool),
    (v = true ∧ i = .wrGicdSpendsgir first n init data) ∨ (v = false ∧ i = .wrGicdCpendsgir first n init data) →
    ∃ (st : Store) (src : Vector (Vector CpuMask 16) 8),
      exec i s = .next ((update { s with store := st, sgiSrc := src }).respond init .ok []) ∧
      (∀ (d : Cpu) (x : Fin 16), bankGet src d x.val =
        if d = s.current init ∧ first ≤ x.val ∧ x.val < first + n.bytes then
          (if v then s.sgiSources d x.val ||| data.extractLsb' (8 * (x.val - first)) 8
            else s.sgiSources d x.val &&& ~~~(data.extractLsb' (8 * (x.val - first)) 8))
        else s.sgiSources d x.val) ∧
      (∀ (irq : Irq) (d : Cpu), (maskAt st.pending irq.val).getLsbD d.val =
        if irq.val < 16 ∧ d = s.current init ∧ first ≤ irq.val ∧ irq.val < first + n.bytes then
          bankGet src d irq.val != 0#8
        else (maskAt s.store.pending irq.val).getLsbD d.val) ∧
      st = { s.store with pending := st.pending }

/-! ## The CPU interface -/

/-- R271 to R273, R291 with R131 to R133: the plain registers of the CPU interface read what is held, and a write holds
the low bits, re-arbitrates, and changes nothing else. -/
def Obligations.CpuInterfaceRegisters : Prop :=
  ∀ (s : State) (init : Nat) (data : Word) (r : CpuIf), r = s.cpuIf (s.current init) →
    exec (.rdGiccCtlr init) s = .next (s.respond init (.okData (r.ctlr.setWidth 32)) []) ∧
    exec (.rdGiccPmr init) s = .next (s.respond init (.okData (r.pmr.setWidth 32)) []) ∧
    exec (.rdGiccBpr init) s = .next (s.respond init (.okData (r.bpr.setWidth 32)) []) ∧
    exec (.rdGiccAbpr init) s = .next (s.respond init (.okData (r.abpr.setWidth 32)) []) ∧
    exec (.rdGiccRpr init) s = .next (s.respond init (.okData (r.rpr.setWidth 32)) []) ∧
    exec (.wrGiccCtlr init data) s =
      .next ((update (s.setCpuIf (s.current init) { r with ctlr := data.setWidth 2 })).respond init .ok []) ∧
    exec (.wrGiccPmr init data) s =
      .next ((update (s.setCpuIf (s.current init) { r with pmr := data.setWidth 8 })).respond init .ok []) ∧
    exec (.wrGiccBpr init data) s =
      .next ((update (s.setCpuIf (s.current init) { r with bpr := data.setWidth 3 })).respond init .ok []) ∧
    exec (.wrGiccAbpr init data) s =
      .next ((update (s.setCpuIf (s.current init) { r with abpr := data.setWidth 3 })).respond init .ok [])

/-- R290 with R129: HPPIR reads 1023 when nothing is selected, the ID when it is no SGI, and the ID with its lowest
pending source in [12:10] when it is one. R367, R368: GICV_HPPIR reads 1023 when no entry is selected, and otherwise
the entry's virtual ID, with its source CPU in [12:10] when it is a virtual SGI. -/
def Obligations.HighestPendingReads : Prop :=
  ∀ (s : State) (init : Nat) (c : Cpu), c = s.current init →
    (∃ v : Word, exec (.rdGiccHppir init) s = .next (s.respond init (.okData v) []) ∧
      ((s.arbOut c).hppir = none → v = 1023#32) ∧
      (∀ irq : Irq, (s.arbOut c).hppir = some irq → 16 ≤ irq.val → v.toNat = irq.val) ∧
      (∀ (irq : Irq) (j : Nat), (s.arbOut c).hppir = some irq → irq.val < 16 →
        LowestBit (s.sgiSources c irq.val) j → v.toNat = irq.val + 1024 * j) ∧
      (∀ irq : Irq, (s.arbOut c).hppir = some irq → irq.val < 16 →
        s.sgiSources c irq.val = 0#8 → v.toNat = irq.val)) ∧
    (∃ w : Word, exec (.rdGicvHppir init) s = .next (s.respond init (.okData w) []) ∧
      ((s.arbOut c).vhppir = none → w = 1023#32) ∧
      (∀ (i : LrIx) (e : ListReg), (s.arbOut c).vhppir = some i → e = (s.virtIf c).listReg i →
        w.toNat = e.virtualId.toNat +
          (if e.hw = false ∧ e.virtualId.toNat < 16 then 1024 * e.cpuId.toNat else 0)))

/-- R274, R365: when nothing is selected, or what is selected cannot preempt, an IAR or GICV_IAR read answers 1023 and
changes nothing. -/
def Obligations.SpuriousAcknowledgeChangesNothing : Prop :=
  ∀ (s : State) (init : Nat),
    ((∀ irq : Irq, (s.arbOut (s.current init)).hppir = some irq →
        ¬(s.prio irq.val (s.current init)).toNat < (s.cpuIf (s.current init)).rpr.toNat) →
      exec (.rdGiccIar init) s = .next (s.respond init (.okData 1023#32) [])) ∧
    ((∀ i : LrIx, (s.arbOut (s.current init)).vhppir = some i →
        ¬((s.virtIf (s.current init)).listReg i).prio.toNat < (s.virtIf (s.current init)).rpr.toNat) →
      exec (.rdGicvIar init) s = .next (s.respond init (.okData 1023#32) []))

/-- R275 for a PPI or SPI: the acknowledge answers the ID, clears pending and sets active and signaled for its mask,
pushes the ID, makes its priority the running one, and re-arbitrates; nothing else changes. -/
def Obligations.AcknowledgeOfPpiOrSpi : Prop :=
  ∀ (s : State) (init : Nat) (c : Cpu) (irq : Irq), c = s.current init →
    (s.arbOut c).hppir = some irq → (s.prio irq.val c).toNat < (s.cpuIf c).rpr.toNat → 16 ≤ irq.val →
    ∃ st : Store,
      exec (.rdGiccIar init) s =
        .next ((update ({ s with store := st }.setCpuIf c
          { s.cpuIf c with stk := irq :: (s.cpuIf c).stk, rpr := s.prio irq.val c })).respond init
            (.okData (BitVec.ofNat 32 irq.val)) []) ∧
      TableWith s.store.pending st.pending irq.val (maskAt s.store.pending irq.val &&& ~~~(maskFor irq.val c)) ∧
      TableWith s.store.active st.active irq.val (maskAt s.store.active irq.val ||| maskFor irq.val c) ∧
      TableWith s.store.signaled st.signaled irq.val (maskAt s.store.signaled irq.val ||| maskFor irq.val c) ∧
      st.enabled = s.store.enabled ∧ st.level = s.store.level ∧ st.trigger = s.store.trigger

/-- R275 for an SGI: the acknowledge takes the lowest-numbered source, answers it in [12:10], leaves the SGI pending
exactly when another source is left, sets active and signaled for this CPU, pushes the ID, makes its priority the
running one, and re-arbitrates; nothing else changes. Without a source (R433) it answers source 0, makes the SGI not
pending, and records the overflow. -/
def Obligations.AcknowledgeOfSgiConsumesOneSource : Prop :=
  ∀ (s : State) (init : Nat) (c : Cpu) (irq : Irq) (j : Nat) (left : CpuMask), c = s.current init →
    (s.arbOut c).hppir = some irq → (s.prio irq.val c).toNat < (s.cpuIf c).rpr.toNat → irq.val < 16 →
    (LowestBit (s.sgiSources c irq.val) j ∧ left = s.sgiSources c irq.val &&& ~~~(1#8 <<< j)) ∨
      (s.sgiSources c irq.val = 0#8 ∧ j = 0 ∧ left = 0#8) →
    ∃ (st : Store) (src : Vector (Vector CpuMask 16) 8),
      exec (.rdGiccIar init) s =
        .next ((update ({ s with store := st, sgiSrc := src }.setCpuIf c
          { s.cpuIf c with stk := irq :: (s.cpuIf c).stk, rpr := s.prio irq.val c })).respond init
            (.okData (BitVec.ofNat 32 (irq.val + 1024 * j)))
            (if s.sgiSources c irq.val = 0#8 then [.sgiSourceOverflow] else [])) ∧
      (∀ (d : Cpu) (x : Fin 16), bankGet src d x.val =
        if d = c ∧ x.val = irq.val then left else s.sgiSources d x.val) ∧
      (∀ (x : Irq) (d : Cpu), (maskAt st.pending x.val).getLsbD d.val =
        if x = irq ∧ d = c then left != 0#8 else (maskAt s.store.pending x.val).getLsbD d.val) ∧
      TableWith s.store.active st.active irq.val (maskAt s.store.active irq.val ||| (1#8 <<< c.val)) ∧
      TableWith s.store.signaled st.signaled irq.val (maskAt s.store.signaled irq.val ||| (1#8 <<< c.val)) ∧
      st.enabled = s.store.enabled ∧ st.level = s.store.level ∧ st.trigger = s.store.trigger

/-- R280, R283: the end-of-interrupt writes that are ignored: an ID of no interrupt, an empty preemption stack, an ID
that is not on the stack. Each answers OK and changes nothing. -/
def Obligations.IgnoredEndOfInterrupt : Prop :=
  ∀ (s : State) (init : Nat) (data : Word),
    512 ≤ (data.setWidth 10).toNat ∨ (s.cpuIf (s.current init)).stk = [] ∨
      (∀ x : Irq, x ∈ (s.cpuIf (s.current init)).stk → x.val ≠ (data.setWidth 10).toNat) →
    ∃ d : Diag, exec (.wrGiccEoir init data) s = .next (s.respond init .ok [d])

/-- R282 with R284: the in-order end of interrupt pops the stack, restores the running priority from the revealed
interrupt's priority now (IDLE_PRIO if there is none), deactivates, and re-arbitrates; nothing else changes. -/
def Obligations.InOrderEndOfInterrupt : Prop :=
  ∀ (s : State) (init : Nat) (data : Word) (c : Cpu) (irq : Irq) (rest : List Irq), c = s.current init →
    (data.setWidth 10).toNat = irq.val → (s.cpuIf c).stk = irq :: rest →
    ∃ (st : Store) (p : Prio),
      exec (.wrGiccEoir init data) s =
        .next ((update ({ s with store := st }.setCpuIf c { s.cpuIf c with stk := rest, rpr := p })).respond
          init .ok []) ∧
      (rest = [] → p = 0xff#8) ∧
      (∀ (x : Irq) (xs : List Irq), rest = x :: xs → p = s.prio x.val c) ∧
      Deactivated s.store st irq.val (maskFor irq.val c)

/-- R283 with R284: the out-of-order end of interrupt removes the innermost occurrence of its ID from the stack, leaves
the head of the stack and the running priority, deactivates, and re-arbitrates; nothing else changes. -/
def Obligations.OutOfOrderEndOfInterrupt : Prop :=
  ∀ (s : State) (init : Nat) (data : Word) (c : Cpu) (irq : Irq) (above below : List Irq), c = s.current init →
    (data.setWidth 10).toNat = irq.val → (s.cpuIf c).stk = above ++ irq :: below → above ≠ [] → irq ∉ above →
    ∃ st : Store,
      exec (.wrGiccEoir init data) s =
        .next ((update ({ s with store := st }.setCpuIf c { s.cpuIf c with stk := above ++ below })).respond
          init .ok []) ∧
      Deactivated s.store st irq.val (maskFor irq.val c)

/-- R286: an acknowledge and the matching end of interrupt leave the preemption stack as it was, and the running
priority too if it was the one the stack gives. -/
def Obligations.AcknowledgeThenEndRestoresPriority : Prop :=
  ∀ (s t : State) (init : Nat) (v : Word),
    exec (.rdGiccIar init) s = .next t → t.out.resp = some (.okData v) → v ≠ 1023#32 →
    ∃ u : State, exec (.wrGiccEoir init v) t = .next u ∧
      (∀ c : Cpu, (u.cpuIf c).stk = (s.cpuIf c).stk) ∧
      (((s.cpuIf (s.current init)).stk = [] ∧ (s.cpuIf (s.current init)).rpr = 0xff#8 ∨
          ∃ (x : Irq) (xs : List Irq), (s.cpuIf (s.current init)).stk = x :: xs ∧
            (s.cpuIf (s.current init)).rpr = s.prio x.val (s.current init)) →
        ∀ c : Cpu, u.cpuIf c = s.cpuIf c)

/-! ## The virtual interface control -/

/-- R321, R324 to R326, R330 with R131, R138, R139: the plain registers of the virtual interface control. -/
def Obligations.VirtualControlRegisters : Prop :=
  ∀ (s : State) (init : Nat) (data : Word) (v : VirtIf), v = s.virtIf (s.current init) →
    exec (.rdGichHcr init) s = .next (s.respond init (.okData (v.hcr.setWidth 32)) []) ∧
    exec (.wrGichHcr init data) s =
      .next ((update (s.setVirtIf (s.current init) { v with hcr := data.setWidth 1 })).respond init .ok []) ∧
    exec (.rdGichVtr init) s = .next (s.respond init (.okData 0x00000003#32) []) ∧
    (∃ w : Word, exec (.rdGichVmcr init) s = .next (s.respond init (.okData w) []) ∧
      w.toNat = (v.pmr.toNat / 8) * 2 ^ 27 + v.bpr.toNat * 2 ^ 21 + v.abpr.toNat * 2 ^ 18 + v.ctlr.toNat) ∧
    (∃ v' : VirtIf, exec (.wrGichVmcr init data) s =
        .next ((update (s.setVirtIf (s.current init) v')).respond init .ok []) ∧
      v'.pmr.toNat = data.toNat / 2 ^ 27 * 8 ∧ v'.bpr.toNat = data.toNat / 2 ^ 21 % 8 ∧
      v'.abpr.toNat = data.toNat / 2 ^ 18 % 8 ∧ v'.ctlr.toNat = data.toNat % 4 ∧
      v' = { v with pmr := v'.pmr, bpr := v'.bpr, abpr := v'.abpr, ctlr := v'.ctlr }) ∧
    exec (.rdGichApr init) s = .next (s.respond init (.okData v.apr) []) ∧
    exec (.wrGichApr init data) s =
      .next ((update (s.setVirtIf (s.current init)
        { v with apr := data, rpr := aprPrio s.params.aprSelect data })).respond init .ok [])

/-- R322 with R135 to R137: a list-register write sets every field of its entry from the word and nothing else, then
re-arbitrates. R323: a read merges the live pending and active bits over the last written value. -/
def Obligations.ListRegisterWriteAndRead : Prop :=
  ∀ (s : State) (i : LrIx) (init : Nat) (data : Word),
    (∃ e : ListReg,
      exec (.wrGichLr i init data) s =
        .next ((update (s.setVirtIf (s.current init)
          ((s.virtIf (s.current init)).setListReg i e))).respond init .ok []) ∧
      e.raw = data ∧ e.hw = data.getLsbD 31 ∧ e.active = data.getLsbD 29 ∧ e.pending = data.getLsbD 28 ∧
      e.prio.toNat = data.toNat / 2 ^ 23 % 32 * 8 ∧ e.virtualId.toNat = data.toNat % 1024 ∧
      e.physicalId.toNat = (if data.getLsbD 31 then data.toNat / 2 ^ 10 % 1024 else 0) ∧
      e.cpuId.toNat = (if data.getLsbD 31 then 0 else data.toNat / 2 ^ 10 % 8)) ∧
    ReadsBits (.rdGichLr i init) init s (fun b =>
      if b = 29 then ((s.virtIf (s.current init)).listReg i).active
      else if b = 28 then ((s.virtIf (s.current init)).listReg i).pending
      else ((s.virtIf (s.current init)).listReg i).raw.getLsbD b)

/-- R331: get_lr gives the lowest index whose entry has the virtual ID and is pending or active, and NONE when no entry
does; R332: get_irq_priority gives that entry's priority, 0 on a miss. -/
def Obligations.ListRegisterLookup : Prop :=
  ∀ (v : VirtIf) (vid : BitVec 10),
    (∀ i : LrIx, getLr v vid = some i ↔
      ((v.listReg i).virtualId = vid ∧ ((v.listReg i).pending = true ∨ (v.listReg i).active = true) ∧
        ∀ j : LrIx, j.val < i.val →
          ¬((v.listReg j).virtualId = vid ∧ ((v.listReg j).pending = true ∨ (v.listReg j).active = true)))) ∧
    (∀ i : LrIx, getLr v vid = some i → getIrqPriority v vid = (v.listReg i).prio) ∧
    (getLr v vid = none → getIrqPriority v vid = 0#8)

/-- R333 with R14: apr_prio is IDLE_PRIO for 0, and otherwise eight times the index of the highest set bit under MSB, of
the lowest under LSB. -/
def Obligations.AprPrioNamesASetBit : Prop :=
  (∀ sel : AprSelect, aprPrio sel 0#32 = 0xff#8) ∧
  (∀ (a : Word) (b : Nat), a.getLsbD b = true → (∀ k : Nat, b < k → a.getLsbD k = false) →
    (aprPrio .msb a).toNat = 8 * b) ∧
  (∀ (a : Word) (b : Nat), a.getLsbD b = true → (∀ k : Nat, k < b → a.getLsbD k = false) →
    (aprPrio .lsb a).toNat = 8 * b)

/-! ## The virtual CPU interface -/

/-- R361 to R364: the plain registers of the virtual CPU interface. -/
def Obligations.VirtualCpuInterfaceRegisters : Prop :=
  ∀ (s : State) (init : Nat) (data : Word) (v : VirtIf), v = s.virtIf (s.current init) →
    exec (.rdGicvCtlr init) s = .next (s.respond init (.okData (v.ctlr.setWidth 32)) []) ∧
    exec (.rdGicvPmr init) s = .next (s.respond init (.okData (v.pmr.setWidth 32)) []) ∧
    exec (.rdGicvBpr init) s = .next (s.respond init (.okData (v.bpr.setWidth 32)) []) ∧
    exec (.rdGicvAbpr init) s = .next (s.respond init (.okData (v.abpr.setWidth 32)) []) ∧
    exec (.rdGicvRpr init) s = .next (s.respond init (.okData (v.rpr.setWidth 32)) []) ∧
    exec (.wrGicvCtlr init data) s =
      .next ((update (s.setVirtIf (s.current init) { v with ctlr := data.setWidth 2 })).respond init .ok []) ∧
    exec (.wrGicvPmr init data) s =
      .next ((update (s.setVirtIf (s.current init) { v with pmr := data.setWidth 8 })).respond init .ok []) ∧
    exec (.wrGicvBpr init data) s =
      .next ((update (s.setVirtIf (s.current init) { v with bpr := data.setWidth 3 })).respond init .ok []) ∧
    exec (.wrGicvAbpr init data) s =
      .next ((update (s.setVirtIf (s.current init) { v with abpr := data.setWidth 3 })).respond init .ok [])

/-- R366, R368: the virtual acknowledge answers the entry's virtual ID (with the source CPU of a virtual SGI), makes the
entry active and not pending, sets the bit of its preemption level, recomputes the running priority, and re-arbitrates;
nothing else changes. -/
def Obligations.VirtualAcknowledge : Prop :=
  ∀ (s : State) (init : Nat) (c : Cpu) (i : LrIx) (v : VirtIf) (e : ListReg), c = s.current init →
    v = s.virtIf c → e = v.listReg i → (s.arbOut c).vhppir = some i → e.prio.toNat < v.rpr.toNat →
    ∃ (w a : Word),
      exec (.rdGicvIar init) s =
        .next ((update (s.setVirtIf c
          { v.setListReg i { e with pending := false, active := true } with
            apr := a, rpr := aprPrio s.params.aprSelect a })).respond init (.okData w) []) ∧
      (∀ b : Nat, b < 32 → a.getLsbD b = (v.apr.getLsbD b || decide (b = e.prio.toNat / 8))) ∧
      w.toNat = e.virtualId.toNat +
        (if e.hw = false ∧ e.virtualId.toNat < 16 then 1024 * e.cpuId.toNat else 0)

/-- R370 to R373: a virtual end of interrupt of an ID ≥ NIRQ is ignored. Any other drops the priority: it clears the
bit of apr that APR_SELECT names and recomputes the running priority. It then makes the entry that get_lr finds
inactive, deactivates the physical interrupt of a hardware-backed entry whose ID is in 17..511, and re-arbitrates;
nothing else changes. -/
def Obligations.VirtualEndOfInterrupt : Prop :=
  ∀ (s : State) (init : Nat) (data : Word) (c : Cpu) (v v1 : VirtIf), c = s.current init → v = s.virtIf c →
    v1 = { v with apr := aprPop s.params.aprSelect v.apr,
                  rpr := aprPrio s.params.aprSelect (aprPop s.params.aprSelect v.apr) } →
    (512 ≤ (data.setWidth 10).toNat →
      exec (.wrGicvEoir init data) s = .next (s.respond init .ok [.virtualEoiOutOfRange])) ∧
    ((data.setWidth 10).toNat < 512 → getLr v (data.setWidth 10) = none →
      exec (.wrGicvEoir init data) s =
        .next ((update (s.setVirtIf c v1)).respond init .ok [.lrLookupMiss])) ∧
    (∀ (i : LrIx) (e : ListReg), (data.setWidth 10).toNat < 512 → getLr v (data.setWidth 10) = some i →
      e = v.listReg i →
      ∃ (st : Store) (diag : List Diag),
        exec (.wrGicvEoir init data) s =
          .next ((update ({ s with store := st }.setVirtIf c
            (v1.setListReg i { e with active := false }))).respond init .ok diag) ∧
        (e.hw = true ∧ 16 < e.physicalId.toNat ∧ e.physicalId.toNat < 512 →
          Deactivated s.store st e.physicalId.toNat (maskFor e.physicalId.toNat c) ∧ diag = []) ∧
        (e.hw = true ∧ ¬(16 < e.physicalId.toNat ∧ e.physicalId.toNat < 512) →
          st = s.store ∧ diag = [.badLrPhysicalId]) ∧
        (e.hw = false → st = s.store ∧ diag = []))

/-- R370, bit by bit: popping the active-priority bitmask clears the highest set bit under MSB, the lowest under LSB, no
other, and none of 0. So (R374, the spec's own inference) after N virtual acknowledges at distinct preemption levels N
pops leave no level, and the running priority they encode is IDLE_PRIO, under either APR_SELECT. -/
def Obligations.NestedVirtualLevelsUnwind : Prop :=
  (∀ sel : AprSelect, aprPop sel 0#32 = 0#32) ∧
  (∀ (a : Word) (b : Nat), a.getLsbD b = true → (∀ k : Nat, b < k → a.getLsbD k = false) →
    ∀ j : Nat, (aprPop .msb a).getLsbD j = (a.getLsbD j && decide (j ≠ b))) ∧
  (∀ (a : Word) (b : Nat), a.getLsbD b = true → (∀ k : Nat, k < b → a.getLsbD k = false) →
    ∀ j : Nat, (aprPop .lsb a).getLsbD j = (a.getLsbD j && decide (j ≠ b))) ∧
  (∀ (sel : AprSelect) (levels : List Nat), levels.Nodup → (∀ l : Nat, l ∈ levels → l < 32) →
    (aprPop sel)^[levels.length] (levels.foldl (fun a l => a ||| (1#32 <<< l)) 0#32) = 0#32 ∧
    aprPrio sel ((aprPop sel)^[levels.length] (levels.foldl (fun a l => a ||| (1#32 <<< l)) 0#32)) = 0xff#8)

/-! ## Input-line events -/

/-- R170, R171: a level-triggered line event sets the level; a rising line makes the interrupt pending unless it is
signaled, a falling line makes it not pending; then UPDATE runs. A repeated level changes nothing. -/
def Obligations.LevelLineEvent : Prop :=
  ∀ (s : State) (port : Port) (v : Bool) (irq : Nat) (m : CpuMask),
    (∀ (c : Cpu) (k : Fin 16), port = .ppi c k → irq = 16 + k.val ∧ m = 1#8 <<< c.val) →
    (∀ x : Fin 480, port = .spi x → irq = 32 + x.val ∧ m = 0xff#8) →
    (v = decide (maskAt s.store.level irq &&& m ≠ 0#8) →
      exec (.lineLevel port v) s = .next (s.setOut none [])) ∧
    (v ≠ decide (maskAt s.store.level irq &&& m ≠ 0#8) →
      ∃ st : Store, exec (.lineLevel port v) s = .next ((update { s with store := st }).setOut none []) ∧
        TableWith s.store.level st.level irq
          (if v then maskAt s.store.level irq ||| m else maskAt s.store.level irq &&& ~~~m) ∧
        TableWith s.store.pending st.pending irq
          (if v = false then maskAt s.store.pending irq &&& ~~~m
            else if maskAt s.store.signaled irq &&& m = 0#8 then maskAt s.store.pending irq ||| m
            else maskAt s.store.pending irq) ∧
        st.enabled = s.store.enabled ∧ st.active = s.store.active ∧ st.signaled = s.store.signaled ∧
        st.trigger = s.store.trigger)

/-- R170, R172: an edge-triggered line event sets the level; a rising edge makes the interrupt pending (under
EDGE_GATED_BY_SIGNALED, unless it is signaled), a falling edge changes no pending bit; then UPDATE runs. A repeated
level changes nothing. -/
def Obligations.EdgeLineEvent : Prop :=
  ∀ (s : State) (port : Port) (v : Bool) (irq : Nat) (m : CpuMask),
    (∀ (c : Cpu) (k : Fin 16), port = .ppi c k → irq = 16 + k.val ∧ m = 1#8 <<< c.val) →
    (∀ x : Fin 480, port = .spi x → irq = 32 + x.val ∧ m = 0xff#8) →
    (v = decide (maskAt s.store.level irq &&& m ≠ 0#8) →
      exec (.lineEdge port v) s = .next (s.setOut none [])) ∧
    (v ≠ decide (maskAt s.store.level irq &&& m ≠ 0#8) →
      ∃ st : Store, exec (.lineEdge port v) s = .next ((update { s with store := st }).setOut none []) ∧
        TableWith s.store.level st.level irq
          (if v then maskAt s.store.level irq ||| m else maskAt s.store.level irq &&& ~~~m) ∧
        TableWith s.store.pending st.pending irq
          (if v = true ∧ ¬(s.params.edgeGatedBySignaled = true ∧ maskAt s.store.signaled irq &&& m ≠ 0#8) then
            maskAt s.store.pending irq ||| m
            else maskAt s.store.pending irq) ∧
        st.enabled = s.store.enabled ∧ st.active = s.store.active ∧ st.signaled = s.store.signaled ∧
        st.trigger = s.store.trigger)

/-! ## Rules about every step -/

/-- R36, R253: every step keeps an SGI pending on a CPU exactly when one of its sources is recorded there. -/
def Obligations.StepKeepsSgiPendingInStepWithSources : Prop :=
  ∀ s t : State, s.SgiSourcesMatch → step s = .next t → t.SgiSourcesMatch

/-- R34: every step keeps all eight bits of each mask of an SPI equal. -/
def Obligations.StepKeepsSpiMasksUniform : Prop :=
  ∀ s t : State, s.SpiMasksUniform → step s = .next t → t.SpiMasksUniform

/-- R44, R136, R137, R322, R323: every step keeps each list register what its last written word says, but for the live
pending and active bits; R330, R366, R370: every step keeps the virtual running priority the one apr encodes. -/
def Obligations.StepKeepsVirtualStateFaithful : Prop :=
  (∀ s t : State, s.ListRegsFaithful → step s = .next t → t.ListRegsFaithful) ∧
  (∀ s t : State, s.VirtualPriorityFaithful → step s = .next t → t.VirtualPriorityFaithful)

/-- R10, R400: every step keeps the arbiter's results of an unconnected CPU and the state of an unimplemented ID at
their reset values; R282, R291: every step keeps a CPU with an empty preemption stack at IDLE_PRIO. -/
def Obligations.StepKeepsUnusedAndIdleQuiet : Prop :=
  (∀ s t : State, s.UnconnectedQuiet → step s = .next t → t.UnconnectedQuiet) ∧
  (∀ s t : State, s.UnimplementedQuiet → step s = .next t → t.UnimplementedQuiet) ∧
  (∀ s t : State, s.IdleWhenEmpty → step s = .next t → t.IdleWhenEmpty)

/-- R412 and the decision D34: with ICACTIVER_PPI_UPDATES no step leaves stale arbitration; without it, only a step
that performs a GICD_ICACTIVER0 write does (R491). -/
def Obligations.OnlyIcactiver0LeavesStaleArbitration : Prop :=
  ∀ (s t : State) (i : Instr), s.Arbitrated → exec i s = .next t →
    s.params.icactiverPpiUpdates = true ∨ (∀ (init : Nat) (data : Word), i ≠ .wrGicdIcactiver0 init data) →
    t.Arbitrated

/-- R31 to R47, R480: all the invariants hold of the state after reset. -/
def Obligations.ResetMeetsTheInvariants : Prop :=
  ∀ p : Params, (State.resetWith p).SgiSourcesMatch ∧ (State.resetWith p).SpiMasksUniform ∧
    (State.resetWith p).ListRegsFaithful ∧ (State.resetWith p).VirtualPriorityFaithful ∧
    (State.resetWith p).UnconnectedQuiet ∧ (State.resetWith p).UnimplementedQuiet ∧
    (State.resetWith p).IdleWhenEmpty ∧ (State.resetWith p).Arbitrated

/-- R35: of all the instructions, only the acknowledge sets an active or a signaled bit; only an end of interrupt,
physical or virtual, an ICACTIVER write (active alone) and reset clear one. -/
def Obligations.OnlyAcknowledgeSetsActive : Prop :=
  ∀ (s t : State) (i : Instr) (irq : Irq) (c : Cpu), exec i s = .next t →
    ((∀ init : Nat, i ≠ .rdGiccIar init) →
      ((maskAt t.store.active irq.val).getLsbD c.val = true →
        (maskAt s.store.active irq.val).getLsbD c.val = true) ∧
      ((maskAt t.store.signaled irq.val).getLsbD c.val = true →
        (maskAt s.store.signaled irq.val).getLsbD c.val = true)) ∧
    (i ≠ .reset → (∀ (init : Nat) (data : Word), i ≠ .wrGiccEoir init data ∧ i ≠ .wrGicvEoir init data) →
      ((maskAt s.store.signaled irq.val).getLsbD c.val = true →
        (maskAt t.store.signaled irq.val).getLsbD c.val = true) ∧
      ((∀ (word init : Nat) (data : Word),
          i ≠ .wrGicdIcactiver0 init data ∧ i ≠ .wrGicdIcactiverSpi word init data) →
        (maskAt s.store.active irq.val).getLsbD c.val = true →
        (maskAt t.store.active irq.val).getLsbD c.val = true))

/-- R461, for these parts of another CPU's banked state: an access leaves its CPU interface and preemption stack, its
list registers and virtual interface, its priorities of IDs 0..31, its bit of their enabled, active, level and signaled
masks, and its pending bits of the PPIs; and every access but a GICD_SGIR write (key 0x2F00, R231) leaves its SGI sources
and its pending bits of the SGIs. The arbiter's results (hppir and the others of R409) are not among them: the UPDATE of an
access recomputes them for every CPU. -/
def Obligations.AccessSparesOtherCpusBanks : Prop :=
  ∀ (s t : State) (key : BitVec 16) (n : Width) (init : Nat) (data : Word) (d : Cpu),
    step (s.deliver (.bus key n init data)) = .next t → d ≠ s.current init →
    t.cpuIf d = s.cpuIf d ∧ t.virtIf d = s.virtIf d ∧
    (∀ irq : Fin 32, t.prio irq.val d = s.prio irq.val d ∧
      (maskAt t.store.enabled irq.val).getLsbD d.val = (maskAt s.store.enabled irq.val).getLsbD d.val ∧
      (maskAt t.store.active irq.val).getLsbD d.val = (maskAt s.store.active irq.val).getLsbD d.val ∧
      (maskAt t.store.level irq.val).getLsbD d.val = (maskAt s.store.level irq.val).getLsbD d.val ∧
      (maskAt t.store.signaled irq.val).getLsbD d.val = (maskAt s.store.signaled irq.val).getLsbD d.val ∧
      (16 ≤ irq.val →
        (maskAt t.store.pending irq.val).getLsbD d.val = (maskAt s.store.pending irq.val).getLsbD d.val)) ∧
    (¬(key = 0x2F00#16 ∧ n = .w4) → ∀ i : Fin 16,
      t.sgiSources d i.val = s.sgiSources d i.val ∧
      (maskAt t.store.pending i.val).getLsbD d.val = (maskAt s.store.pending i.val).getLsbD d.val)

/-- R434: every instruction completes from every state: there is no fault and no refusal after decoding; and none changes
the parameters (R480). That none changes the requests still to be performed, not even reset, is the model's choice (log
entries 1 and 14). -/
def Obligations.EveryInstructionCompletes : Prop :=
  ∀ (i : Instr) (s : State), ∃ t : State, exec i s = .next t ∧ t.params = s.params ∧ t.inbox = s.inbox
end

