-- ==== Sys2Proof/Laws/State.lean ====
section
/-! SUPPORT. One lemma per field per update of the state, true by definition, and the accessors over the updates; no
later proof unfolds a record update. -/

namespace Sys2Proof.Machine

/-! ## onStore -/

@[simp] theorem State.onStore_params (f : Store → Store) (s : State) : (s.onStore f).params = s.params := rfl
@[simp] theorem State.onStore_store (f : Store → Store) (s : State) : (s.onStore f).store = f s.store := rfl
@[simp] theorem State.onStore_sgiSrc (f : Store → Store) (s : State) : (s.onStore f).sgiSrc = s.sgiSrc := rfl
@[simp] theorem State.onStore_dctlr (f : Store → Store) (s : State) : (s.onStore f).dctlr = s.dctlr := rfl
@[simp] theorem State.onStore_prioPriv (f : Store → Store) (s : State) : (s.onStore f).prioPriv = s.prioPriv := rfl
@[simp] theorem State.onStore_prioSpi (f : Store → Store) (s : State) : (s.onStore f).prioSpi = s.prioSpi := rfl
@[simp] theorem State.onStore_itargets (f : Store → Store) (s : State) : (s.onStore f).itargets = s.itargets := rfl
@[simp] theorem State.onStore_cpu (f : Store → Store) (s : State) : (s.onStore f).cpu = s.cpu := rfl
@[simp] theorem State.onStore_virt (f : Store → Store) (s : State) : (s.onStore f).virt = s.virt := rfl
@[simp] theorem State.onStore_arb (f : Store → Store) (s : State) : (s.onStore f).arb = s.arb := rfl
@[simp] theorem State.onStore_inbox (f : Store → Store) (s : State) : (s.onStore f).inbox = s.inbox := rfl
@[simp] theorem State.onStore_out (f : Store → Store) (s : State) : (s.onStore f).out = s.out := rfl

/-! ## setSgiSources -/

@[simp] theorem State.setSgiSources_params (s : State) (c : Cpu) (i : Nat) (v : CpuMask) : (s.setSgiSources c i v).params = s.params := rfl
@[simp] theorem State.setSgiSources_store (s : State) (c : Cpu) (i : Nat) (v : CpuMask) : (s.setSgiSources c i v).store = s.store := rfl
@[simp] theorem State.setSgiSources_sgiSrc (s : State) (c : Cpu) (i : Nat) (v : CpuMask) : (s.setSgiSources c i v).sgiSrc = bankSet s.sgiSrc c i v := rfl
@[simp] theorem State.setSgiSources_dctlr (s : State) (c : Cpu) (i : Nat) (v : CpuMask) : (s.setSgiSources c i v).dctlr = s.dctlr := rfl
@[simp] theorem State.setSgiSources_prioPriv (s : State) (c : Cpu) (i : Nat) (v : CpuMask) : (s.setSgiSources c i v).prioPriv = s.prioPriv := rfl
@[simp] theorem State.setSgiSources_prioSpi (s : State) (c : Cpu) (i : Nat) (v : CpuMask) : (s.setSgiSources c i v).prioSpi = s.prioSpi := rfl
@[simp] theorem State.setSgiSources_itargets (s : State) (c : Cpu) (i : Nat) (v : CpuMask) : (s.setSgiSources c i v).itargets = s.itargets := rfl
@[simp] theorem State.setSgiSources_cpu (s : State) (c : Cpu) (i : Nat) (v : CpuMask) : (s.setSgiSources c i v).cpu = s.cpu := rfl
@[simp] theorem State.setSgiSources_virt (s : State) (c : Cpu) (i : Nat) (v : CpuMask) : (s.setSgiSources c i v).virt = s.virt := rfl
@[simp] theorem State.setSgiSources_arb (s : State) (c : Cpu) (i : Nat) (v : CpuMask) : (s.setSgiSources c i v).arb = s.arb := rfl
@[simp] theorem State.setSgiSources_inbox (s : State) (c : Cpu) (i : Nat) (v : CpuMask) : (s.setSgiSources c i v).inbox = s.inbox := rfl
@[simp] theorem State.setSgiSources_out (s : State) (c : Cpu) (i : Nat) (v : CpuMask) : (s.setSgiSources c i v).out = s.out := rfl

/-! ## setDctlr -/

@[simp] theorem State.setDctlr_params (s : State) (v : BitVec 2) : (s.setDctlr v).params = s.params := rfl
@[simp] theorem State.setDctlr_store (s : State) (v : BitVec 2) : (s.setDctlr v).store = s.store := rfl
@[simp] theorem State.setDctlr_sgiSrc (s : State) (v : BitVec 2) : (s.setDctlr v).sgiSrc = s.sgiSrc := rfl
@[simp] theorem State.setDctlr_dctlr (s : State) (v : BitVec 2) : (s.setDctlr v).dctlr = v := rfl
@[simp] theorem State.setDctlr_prioPriv (s : State) (v : BitVec 2) : (s.setDctlr v).prioPriv = s.prioPriv := rfl
@[simp] theorem State.setDctlr_prioSpi (s : State) (v : BitVec 2) : (s.setDctlr v).prioSpi = s.prioSpi := rfl
@[simp] theorem State.setDctlr_itargets (s : State) (v : BitVec 2) : (s.setDctlr v).itargets = s.itargets := rfl
@[simp] theorem State.setDctlr_cpu (s : State) (v : BitVec 2) : (s.setDctlr v).cpu = s.cpu := rfl
@[simp] theorem State.setDctlr_virt (s : State) (v : BitVec 2) : (s.setDctlr v).virt = s.virt := rfl
@[simp] theorem State.setDctlr_arb (s : State) (v : BitVec 2) : (s.setDctlr v).arb = s.arb := rfl
@[simp] theorem State.setDctlr_inbox (s : State) (v : BitVec 2) : (s.setDctlr v).inbox = s.inbox := rfl
@[simp] theorem State.setDctlr_out (s : State) (v : BitVec 2) : (s.setDctlr v).out = s.out := rfl

/-! ## setPrioPriv -/

@[simp] theorem State.setPrioPriv_params (s : State) (c : Cpu) (irq : Nat) (v : Prio) : (s.setPrioPriv c irq v).params = s.params := rfl
@[simp] theorem State.setPrioPriv_store (s : State) (c : Cpu) (irq : Nat) (v : Prio) : (s.setPrioPriv c irq v).store = s.store := rfl
@[simp] theorem State.setPrioPriv_sgiSrc (s : State) (c : Cpu) (irq : Nat) (v : Prio) : (s.setPrioPriv c irq v).sgiSrc = s.sgiSrc := rfl
@[simp] theorem State.setPrioPriv_dctlr (s : State) (c : Cpu) (irq : Nat) (v : Prio) : (s.setPrioPriv c irq v).dctlr = s.dctlr := rfl
@[simp] theorem State.setPrioPriv_prioPriv (s : State) (c : Cpu) (irq : Nat) (v : Prio) : (s.setPrioPriv c irq v).prioPriv = bankSet s.prioPriv c irq v := rfl
@[simp] theorem State.setPrioPriv_prioSpi (s : State) (c : Cpu) (irq : Nat) (v : Prio) : (s.setPrioPriv c irq v).prioSpi = s.prioSpi := rfl
@[simp] theorem State.setPrioPriv_itargets (s : State) (c : Cpu) (irq : Nat) (v : Prio) : (s.setPrioPriv c irq v).itargets = s.itargets := rfl
@[simp] theorem State.setPrioPriv_cpu (s : State) (c : Cpu) (irq : Nat) (v : Prio) : (s.setPrioPriv c irq v).cpu = s.cpu := rfl
@[simp] theorem State.setPrioPriv_virt (s : State) (c : Cpu) (irq : Nat) (v : Prio) : (s.setPrioPriv c irq v).virt = s.virt := rfl
@[simp] theorem State.setPrioPriv_arb (s : State) (c : Cpu) (irq : Nat) (v : Prio) : (s.setPrioPriv c irq v).arb = s.arb := rfl
@[simp] theorem State.setPrioPriv_inbox (s : State) (c : Cpu) (irq : Nat) (v : Prio) : (s.setPrioPriv c irq v).inbox = s.inbox := rfl
@[simp] theorem State.setPrioPriv_out (s : State) (c : Cpu) (irq : Nat) (v : Prio) : (s.setPrioPriv c irq v).out = s.out := rfl

/-! ## setPrioSpi -/

@[simp] theorem State.setPrioSpi_params (s : State) (irq : Nat) (v : Prio) : (s.setPrioSpi irq v).params = s.params := by
  unfold State.setPrioSpi; split <;> rfl
@[simp] theorem State.setPrioSpi_store (s : State) (irq : Nat) (v : Prio) : (s.setPrioSpi irq v).store = s.store := by
  unfold State.setPrioSpi; split <;> rfl
@[simp] theorem State.setPrioSpi_sgiSrc (s : State) (irq : Nat) (v : Prio) : (s.setPrioSpi irq v).sgiSrc = s.sgiSrc := by
  unfold State.setPrioSpi; split <;> rfl
@[simp] theorem State.setPrioSpi_dctlr (s : State) (irq : Nat) (v : Prio) : (s.setPrioSpi irq v).dctlr = s.dctlr := by
  unfold State.setPrioSpi; split <;> rfl
@[simp] theorem State.setPrioSpi_prioPriv (s : State) (irq : Nat) (v : Prio) : (s.setPrioSpi irq v).prioPriv = s.prioPriv := by
  unfold State.setPrioSpi; split <;> rfl
@[simp] theorem State.setPrioSpi_prioSpi (s : State) (irq : Nat) (v : Prio) : (s.setPrioSpi irq v).prioSpi = if nPriv ≤ irq then s.prioSpi.setIfInBounds (irq - nPriv) v else s.prioSpi := by
  unfold State.setPrioSpi; split <;> rfl
@[simp] theorem State.setPrioSpi_itargets (s : State) (irq : Nat) (v : Prio) : (s.setPrioSpi irq v).itargets = s.itargets := by
  unfold State.setPrioSpi; split <;> rfl
@[simp] theorem State.setPrioSpi_cpu (s : State) (irq : Nat) (v : Prio) : (s.setPrioSpi irq v).cpu = s.cpu := by
  unfold State.setPrioSpi; split <;> rfl
@[simp] theorem State.setPrioSpi_virt (s : State) (irq : Nat) (v : Prio) : (s.setPrioSpi irq v).virt = s.virt := by
  unfold State.setPrioSpi; split <;> rfl
@[simp] theorem State.setPrioSpi_arb (s : State) (irq : Nat) (v : Prio) : (s.setPrioSpi irq v).arb = s.arb := by
  unfold State.setPrioSpi; split <;> rfl
@[simp] theorem State.setPrioSpi_inbox (s : State) (irq : Nat) (v : Prio) : (s.setPrioSpi irq v).inbox = s.inbox := by
  unfold State.setPrioSpi; split <;> rfl
@[simp] theorem State.setPrioSpi_out (s : State) (irq : Nat) (v : Prio) : (s.setPrioSpi irq v).out = s.out := by
  unfold State.setPrioSpi; split <;> rfl

/-! ## setTargets -/

@[simp] theorem State.setTargets_params (s : State) (irq : Nat) (v : CpuMask) : (s.setTargets irq v).params = s.params := by
  unfold State.setTargets; split <;> rfl
@[simp] theorem State.setTargets_store (s : State) (irq : Nat) (v : CpuMask) : (s.setTargets irq v).store = s.store := by
  unfold State.setTargets; split <;> rfl
@[simp] theorem State.setTargets_sgiSrc (s : State) (irq : Nat) (v : CpuMask) : (s.setTargets irq v).sgiSrc = s.sgiSrc := by
  unfold State.setTargets; split <;> rfl
@[simp] theorem State.setTargets_dctlr (s : State) (irq : Nat) (v : CpuMask) : (s.setTargets irq v).dctlr = s.dctlr := by
  unfold State.setTargets; split <;> rfl
@[simp] theorem State.setTargets_prioPriv (s : State) (irq : Nat) (v : CpuMask) : (s.setTargets irq v).prioPriv = s.prioPriv := by
  unfold State.setTargets; split <;> rfl
@[simp] theorem State.setTargets_prioSpi (s : State) (irq : Nat) (v : CpuMask) : (s.setTargets irq v).prioSpi = s.prioSpi := by
  unfold State.setTargets; split <;> rfl
@[simp] theorem State.setTargets_itargets (s : State) (irq : Nat) (v : CpuMask) : (s.setTargets irq v).itargets = if nPriv ≤ irq then s.itargets.setIfInBounds (irq - nPriv) v else s.itargets := by
  unfold State.setTargets; split <;> rfl
@[simp] theorem State.setTargets_cpu (s : State) (irq : Nat) (v : CpuMask) : (s.setTargets irq v).cpu = s.cpu := by
  unfold State.setTargets; split <;> rfl
@[simp] theorem State.setTargets_virt (s : State) (irq : Nat) (v : CpuMask) : (s.setTargets irq v).virt = s.virt := by
  unfold State.setTargets; split <;> rfl
@[simp] theorem State.setTargets_arb (s : State) (irq : Nat) (v : CpuMask) : (s.setTargets irq v).arb = s.arb := by
  unfold State.setTargets; split <;> rfl
@[simp] theorem State.setTargets_inbox (s : State) (irq : Nat) (v : CpuMask) : (s.setTargets irq v).inbox = s.inbox := by
  unfold State.setTargets; split <;> rfl
@[simp] theorem State.setTargets_out (s : State) (irq : Nat) (v : CpuMask) : (s.setTargets irq v).out = s.out := by
  unfold State.setTargets; split <;> rfl

/-! ## setCpuIf -/

@[simp] theorem State.setCpuIf_params (s : State) (c : Cpu) (r : CpuIf) : (s.setCpuIf c r).params = s.params := rfl
@[simp] theorem State.setCpuIf_store (s : State) (c : Cpu) (r : CpuIf) : (s.setCpuIf c r).store = s.store := rfl
@[simp] theorem State.setCpuIf_sgiSrc (s : State) (c : Cpu) (r : CpuIf) : (s.setCpuIf c r).sgiSrc = s.sgiSrc := rfl
@[simp] theorem State.setCpuIf_dctlr (s : State) (c : Cpu) (r : CpuIf) : (s.setCpuIf c r).dctlr = s.dctlr := rfl
@[simp] theorem State.setCpuIf_prioPriv (s : State) (c : Cpu) (r : CpuIf) : (s.setCpuIf c r).prioPriv = s.prioPriv := rfl
@[simp] theorem State.setCpuIf_prioSpi (s : State) (c : Cpu) (r : CpuIf) : (s.setCpuIf c r).prioSpi = s.prioSpi := rfl
@[simp] theorem State.setCpuIf_itargets (s : State) (c : Cpu) (r : CpuIf) : (s.setCpuIf c r).itargets = s.itargets := rfl
@[simp] theorem State.setCpuIf_cpu (s : State) (c : Cpu) (r : CpuIf) : (s.setCpuIf c r).cpu = s.cpu.set c.val r := rfl
@[simp] theorem State.setCpuIf_virt (s : State) (c : Cpu) (r : CpuIf) : (s.setCpuIf c r).virt = s.virt := rfl
@[simp] theorem State.setCpuIf_arb (s : State) (c : Cpu) (r : CpuIf) : (s.setCpuIf c r).arb = s.arb := rfl
@[simp] theorem State.setCpuIf_inbox (s : State) (c : Cpu) (r : CpuIf) : (s.setCpuIf c r).inbox = s.inbox := rfl
@[simp] theorem State.setCpuIf_out (s : State) (c : Cpu) (r : CpuIf) : (s.setCpuIf c r).out = s.out := rfl

/-! ## setVirtIf -/

@[simp] theorem State.setVirtIf_params (s : State) (c : Cpu) (v : VirtIf) : (s.setVirtIf c v).params = s.params := rfl
@[simp] theorem State.setVirtIf_store (s : State) (c : Cpu) (v : VirtIf) : (s.setVirtIf c v).store = s.store := rfl
@[simp] theorem State.setVirtIf_sgiSrc (s : State) (c : Cpu) (v : VirtIf) : (s.setVirtIf c v).sgiSrc = s.sgiSrc := rfl
@[simp] theorem State.setVirtIf_dctlr (s : State) (c : Cpu) (v : VirtIf) : (s.setVirtIf c v).dctlr = s.dctlr := rfl
@[simp] theorem State.setVirtIf_prioPriv (s : State) (c : Cpu) (v : VirtIf) : (s.setVirtIf c v).prioPriv = s.prioPriv := rfl
@[simp] theorem State.setVirtIf_prioSpi (s : State) (c : Cpu) (v : VirtIf) : (s.setVirtIf c v).prioSpi = s.prioSpi := rfl
@[simp] theorem State.setVirtIf_itargets (s : State) (c : Cpu) (v : VirtIf) : (s.setVirtIf c v).itargets = s.itargets := rfl
@[simp] theorem State.setVirtIf_cpu (s : State) (c : Cpu) (v : VirtIf) : (s.setVirtIf c v).cpu = s.cpu := rfl
@[simp] theorem State.setVirtIf_virt (s : State) (c : Cpu) (v : VirtIf) : (s.setVirtIf c v).virt = s.virt.set c.val v := rfl
@[simp] theorem State.setVirtIf_arb (s : State) (c : Cpu) (v : VirtIf) : (s.setVirtIf c v).arb = s.arb := rfl
@[simp] theorem State.setVirtIf_inbox (s : State) (c : Cpu) (v : VirtIf) : (s.setVirtIf c v).inbox = s.inbox := rfl
@[simp] theorem State.setVirtIf_out (s : State) (c : Cpu) (v : VirtIf) : (s.setVirtIf c v).out = s.out := rfl

/-! ## setOut -/

@[simp] theorem State.setOut_params (s : State) (resp : Option Response) (diag : List Diag) : (s.setOut resp diag).params = s.params := rfl
@[simp] theorem State.setOut_store (s : State) (resp : Option Response) (diag : List Diag) : (s.setOut resp diag).store = s.store := rfl
@[simp] theorem State.setOut_sgiSrc (s : State) (resp : Option Response) (diag : List Diag) : (s.setOut resp diag).sgiSrc = s.sgiSrc := rfl
@[simp] theorem State.setOut_dctlr (s : State) (resp : Option Response) (diag : List Diag) : (s.setOut resp diag).dctlr = s.dctlr := rfl
@[simp] theorem State.setOut_prioPriv (s : State) (resp : Option Response) (diag : List Diag) : (s.setOut resp diag).prioPriv = s.prioPriv := rfl
@[simp] theorem State.setOut_prioSpi (s : State) (resp : Option Response) (diag : List Diag) : (s.setOut resp diag).prioSpi = s.prioSpi := rfl
@[simp] theorem State.setOut_itargets (s : State) (resp : Option Response) (diag : List Diag) : (s.setOut resp diag).itargets = s.itargets := rfl
@[simp] theorem State.setOut_cpu (s : State) (resp : Option Response) (diag : List Diag) : (s.setOut resp diag).cpu = s.cpu := rfl
@[simp] theorem State.setOut_virt (s : State) (resp : Option Response) (diag : List Diag) : (s.setOut resp diag).virt = s.virt := rfl
@[simp] theorem State.setOut_arb (s : State) (resp : Option Response) (diag : List Diag) : (s.setOut resp diag).arb = s.arb := rfl
@[simp] theorem State.setOut_inbox (s : State) (resp : Option Response) (diag : List Diag) : (s.setOut resp diag).inbox = s.inbox := rfl
@[simp] theorem State.setOut_out (s : State) (resp : Option Response) (diag : List Diag) : (s.setOut resp diag).out = ⟨resp, diag⟩ := rfl

/-! ## respond -/

@[simp] theorem State.respond_params (s : State) (init : Nat) (r : Response) (diag : List Diag) : (s.respond init r diag).params = s.params := rfl
@[simp] theorem State.respond_store (s : State) (init : Nat) (r : Response) (diag : List Diag) : (s.respond init r diag).store = s.store := rfl
@[simp] theorem State.respond_sgiSrc (s : State) (init : Nat) (r : Response) (diag : List Diag) : (s.respond init r diag).sgiSrc = s.sgiSrc := rfl
@[simp] theorem State.respond_dctlr (s : State) (init : Nat) (r : Response) (diag : List Diag) : (s.respond init r diag).dctlr = s.dctlr := rfl
@[simp] theorem State.respond_prioPriv (s : State) (init : Nat) (r : Response) (diag : List Diag) : (s.respond init r diag).prioPriv = s.prioPriv := rfl
@[simp] theorem State.respond_prioSpi (s : State) (init : Nat) (r : Response) (diag : List Diag) : (s.respond init r diag).prioSpi = s.prioSpi := rfl
@[simp] theorem State.respond_itargets (s : State) (init : Nat) (r : Response) (diag : List Diag) : (s.respond init r diag).itargets = s.itargets := rfl
@[simp] theorem State.respond_cpu (s : State) (init : Nat) (r : Response) (diag : List Diag) : (s.respond init r diag).cpu = s.cpu := rfl
@[simp] theorem State.respond_virt (s : State) (init : Nat) (r : Response) (diag : List Diag) : (s.respond init r diag).virt = s.virt := rfl
@[simp] theorem State.respond_arb (s : State) (init : Nat) (r : Response) (diag : List Diag) : (s.respond init r diag).arb = s.arb := rfl
@[simp] theorem State.respond_inbox (s : State) (init : Nat) (r : Response) (diag : List Diag) : (s.respond init r diag).inbox = s.inbox := rfl
@[simp] theorem State.respond_out (s : State) (init : Nat) (r : Response) (diag : List Diag) : (s.respond init r diag).out = ⟨some r, initiatorDiag s.params init ++ diag⟩ := rfl

/-! ## deliver -/

@[simp] theorem State.deliver_params (s : State) (r : Request) : (s.deliver r).params = s.params := rfl
@[simp] theorem State.deliver_store (s : State) (r : Request) : (s.deliver r).store = s.store := rfl
@[simp] theorem State.deliver_sgiSrc (s : State) (r : Request) : (s.deliver r).sgiSrc = s.sgiSrc := rfl
@[simp] theorem State.deliver_dctlr (s : State) (r : Request) : (s.deliver r).dctlr = s.dctlr := rfl
@[simp] theorem State.deliver_prioPriv (s : State) (r : Request) : (s.deliver r).prioPriv = s.prioPriv := rfl
@[simp] theorem State.deliver_prioSpi (s : State) (r : Request) : (s.deliver r).prioSpi = s.prioSpi := rfl
@[simp] theorem State.deliver_itargets (s : State) (r : Request) : (s.deliver r).itargets = s.itargets := rfl
@[simp] theorem State.deliver_cpu (s : State) (r : Request) : (s.deliver r).cpu = s.cpu := rfl
@[simp] theorem State.deliver_virt (s : State) (r : Request) : (s.deliver r).virt = s.virt := rfl
@[simp] theorem State.deliver_arb (s : State) (r : Request) : (s.deliver r).arb = s.arb := rfl
@[simp] theorem State.deliver_inbox (s : State) (r : Request) : (s.deliver r).inbox = r :: s.inbox := rfl
@[simp] theorem State.deliver_out (s : State) (r : Request) : (s.deliver r).out = s.out := rfl

/-! ## update -/

@[simp] theorem update_params (s : State) : (update s).params = s.params := rfl
@[simp] theorem update_store (s : State) : (update s).store = s.store := rfl
@[simp] theorem update_sgiSrc (s : State) : (update s).sgiSrc = s.sgiSrc := rfl
@[simp] theorem update_dctlr (s : State) : (update s).dctlr = s.dctlr := rfl
@[simp] theorem update_prioPriv (s : State) : (update s).prioPriv = s.prioPriv := rfl
@[simp] theorem update_prioSpi (s : State) : (update s).prioSpi = s.prioSpi := rfl
@[simp] theorem update_itargets (s : State) : (update s).itargets = s.itargets := rfl
@[simp] theorem update_cpu (s : State) : (update s).cpu = s.cpu := rfl
@[simp] theorem update_virt (s : State) : (update s).virt = s.virt := rfl
@[simp] theorem update_arb (s : State) : (update s).arb =
    perCpu (fun c => if c.val < s.params.numCpu then arbFor s c else s.arbOut c) := rfl
@[simp] theorem update_inbox (s : State) : (update s).inbox = s.inbox := rfl
@[simp] theorem update_out (s : State) : (update s).out = s.out := rfl

/-! ## The store -/

@[simp] theorem Store.setEnabled_enabled (st : Store) (irq : Nat) (v : Bool) (m : CpuMask) :
    (st.setEnabled irq v m).enabled = setMask st.enabled irq v m := rfl
@[simp] theorem Store.setEnabled_pending (st : Store) (irq : Nat) (v : Bool) (m : CpuMask) :
    (st.setEnabled irq v m).pending = st.pending := rfl
@[simp] theorem Store.setEnabled_active (st : Store) (irq : Nat) (v : Bool) (m : CpuMask) :
    (st.setEnabled irq v m).active = st.active := rfl
@[simp] theorem Store.setEnabled_level (st : Store) (irq : Nat) (v : Bool) (m : CpuMask) :
    (st.setEnabled irq v m).level = st.level := rfl
@[simp] theorem Store.setEnabled_signaled (st : Store) (irq : Nat) (v : Bool) (m : CpuMask) :
    (st.setEnabled irq v m).signaled = st.signaled := rfl
@[simp] theorem Store.setEnabled_trigger (st : Store) (irq : Nat) (v : Bool) (m : CpuMask) :
    (st.setEnabled irq v m).trigger = st.trigger := rfl

@[simp] theorem Store.setPending_enabled (st : Store) (irq : Nat) (v : Bool) (m : CpuMask) :
    (st.setPending irq v m).enabled = st.enabled := rfl
@[simp] theorem Store.setPending_pending (st : Store) (irq : Nat) (v : Bool) (m : CpuMask) :
    (st.setPending irq v m).pending = setMask st.pending irq v m := rfl
@[simp] theorem Store.setPending_active (st : Store) (irq : Nat) (v : Bool) (m : CpuMask) :
    (st.setPending irq v m).active = st.active := rfl
@[simp] theorem Store.setPending_level (st : Store) (irq : Nat) (v : Bool) (m : CpuMask) :
    (st.setPending irq v m).level = st.level := rfl
@[simp] theorem Store.setPending_signaled (st : Store) (irq : Nat) (v : Bool) (m : CpuMask) :
    (st.setPending irq v m).signaled = st.signaled := rfl
@[simp] theorem Store.setPending_trigger (st : Store) (irq : Nat) (v : Bool) (m : CpuMask) :
    (st.setPending irq v m).trigger = st.trigger := rfl

@[simp] theorem Store.setActive_enabled (st : Store) (irq : Nat) (v : Bool) (m : CpuMask) :
    (st.setActive irq v m).enabled = st.enabled := rfl
@[simp] theorem Store.setActive_pending (st : Store) (irq : Nat) (v : Bool) (m : CpuMask) :
    (st.setActive irq v m).pending = st.pending := rfl
@[simp] theorem Store.setActive_active (st : Store) (irq : Nat) (v : Bool) (m : CpuMask) :
    (st.setActive irq v m).active = setMask st.active irq v m := rfl
@[simp] theorem Store.setActive_level (st : Store) (irq : Nat) (v : Bool) (m : CpuMask) :
    (st.setActive irq v m).level = st.level := rfl
@[simp] theorem Store.setActive_signaled (st : Store) (irq : Nat) (v : Bool) (m : CpuMask) :
    (st.setActive irq v m).signaled = st.signaled := rfl
@[simp] theorem Store.setActive_trigger (st : Store) (irq : Nat) (v : Bool) (m : CpuMask) :
    (st.setActive irq v m).trigger = st.trigger := rfl

@[simp] theorem Store.setLevel_enabled (st : Store) (irq : Nat) (v : Bool) (m : CpuMask) :
    (st.setLevel irq v m).enabled = st.enabled := rfl
@[simp] theorem Store.setLevel_pending (st : Store) (irq : Nat) (v : Bool) (m : CpuMask) :
    (st.setLevel irq v m).pending = st.pending := rfl
@[simp] theorem Store.setLevel_active (st : Store) (irq : Nat) (v : Bool) (m : CpuMask) :
    (st.setLevel irq v m).active = st.active := rfl
@[simp] theorem Store.setLevel_level (st : Store) (irq : Nat) (v : Bool) (m : CpuMask) :
    (st.setLevel irq v m).level = setMask st.level irq v m := rfl
@[simp] theorem Store.setLevel_signaled (st : Store) (irq : Nat) (v : Bool) (m : CpuMask) :
    (st.setLevel irq v m).signaled = st.signaled := rfl
@[simp] theorem Store.setLevel_trigger (st : Store) (irq : Nat) (v : Bool) (m : CpuMask) :
    (st.setLevel irq v m).trigger = st.trigger := rfl

@[simp] theorem Store.setSignaled_enabled (st : Store) (irq : Nat) (v : Bool) (m : CpuMask) :
    (st.setSignaled irq v m).enabled = st.enabled := rfl
@[simp] theorem Store.setSignaled_pending (st : Store) (irq : Nat) (v : Bool) (m : CpuMask) :
    (st.setSignaled irq v m).pending = st.pending := rfl
@[simp] theorem Store.setSignaled_active (st : Store) (irq : Nat) (v : Bool) (m : CpuMask) :
    (st.setSignaled irq v m).active = st.active := rfl
@[simp] theorem Store.setSignaled_level (st : Store) (irq : Nat) (v : Bool) (m : CpuMask) :
    (st.setSignaled irq v m).level = st.level := rfl
@[simp] theorem Store.setSignaled_signaled (st : Store) (irq : Nat) (v : Bool) (m : CpuMask) :
    (st.setSignaled irq v m).signaled = setMask st.signaled irq v m := rfl
@[simp] theorem Store.setSignaled_trigger (st : Store) (irq : Nat) (v : Bool) (m : CpuMask) :
    (st.setSignaled irq v m).trigger = st.trigger := rfl

@[simp] theorem Store.setTrigger_enabled (st : Store) (irq : Nat) (mode : Trigger) :
    (st.setTrigger irq mode).enabled = st.enabled := by
  unfold Store.setTrigger; split <;> rfl
@[simp] theorem Store.setTrigger_pending (st : Store) (irq : Nat) (mode : Trigger) :
    (st.setTrigger irq mode).pending = st.pending := by
  unfold Store.setTrigger; split <;> rfl
@[simp] theorem Store.setTrigger_active (st : Store) (irq : Nat) (mode : Trigger) :
    (st.setTrigger irq mode).active = st.active := by
  unfold Store.setTrigger; split <;> rfl
@[simp] theorem Store.setTrigger_level (st : Store) (irq : Nat) (mode : Trigger) :
    (st.setTrigger irq mode).level = st.level := by
  unfold Store.setTrigger; split <;> rfl
@[simp] theorem Store.setTrigger_signaled (st : Store) (irq : Nat) (mode : Trigger) :
    (st.setTrigger irq mode).signaled = st.signaled := by
  unfold Store.setTrigger; split <;> rfl
@[simp] theorem Store.setTrigger_trigger (st : Store) (irq : Nat) (mode : Trigger) :
    (st.setTrigger irq mode).trigger = if nSgi ≤ irq then st.trigger.setIfInBounds (irq - nSgi) mode else st.trigger := by
  unfold Store.setTrigger; split <;> rfl

@[simp] theorem Store.catchUp_enabled (st : Store) (irq : Nat) (m : CpuMask) :
    (st.catchUp irq m).enabled = st.enabled := by
  unfold Store.catchUp; split <;> rfl
@[simp] theorem Store.catchUp_pending (st : Store) (irq : Nat) (m : CpuMask) :
    (st.catchUp irq m).pending = if st.triggerOf irq = .level ∧ st.isLevel irq m = true then setMask st.pending irq true m else st.pending := by
  unfold Store.catchUp; split <;> rfl
@[simp] theorem Store.catchUp_active (st : Store) (irq : Nat) (m : CpuMask) :
    (st.catchUp irq m).active = st.active := by
  unfold Store.catchUp; split <;> rfl
@[simp] theorem Store.catchUp_level (st : Store) (irq : Nat) (m : CpuMask) :
    (st.catchUp irq m).level = st.level := by
  unfold Store.catchUp; split <;> rfl
@[simp] theorem Store.catchUp_signaled (st : Store) (irq : Nat) (m : CpuMask) :
    (st.catchUp irq m).signaled = st.signaled := by
  unfold Store.catchUp; split <;> rfl
@[simp] theorem Store.catchUp_trigger (st : Store) (irq : Nat) (m : CpuMask) :
    (st.catchUp irq m).trigger = st.trigger := by
  unfold Store.catchUp; split <;> rfl

/-! ## Accessors over the updates they do not see -/

@[simp] theorem State.onStore_sgiSources (f : Store → Store) (s : State) (c' : Cpu) (i' : Nat) :
    (s.onStore f).sgiSources c' i' = s.sgiSources c' i' := rfl
@[simp] theorem State.onStore_prio (f : Store → Store) (s : State) (irq' : Nat) (c' : Cpu) :
    (s.onStore f).prio irq' c' = s.prio irq' c' := rfl
@[simp] theorem State.onStore_targets (f : Store → Store) (s : State) (irq' : Nat) :
    (s.onStore f).targets irq' = s.targets irq' := rfl
@[simp] theorem State.onStore_cpuIf (f : Store → Store) (s : State) (c' : Cpu) :
    (s.onStore f).cpuIf c' = s.cpuIf c' := rfl
@[simp] theorem State.onStore_virtIf (f : Store → Store) (s : State) (c' : Cpu) :
    (s.onStore f).virtIf c' = s.virtIf c' := rfl
@[simp] theorem State.onStore_arbOut (f : Store → Store) (s : State) (c' : Cpu) :
    (s.onStore f).arbOut c' = s.arbOut c' := rfl
@[simp] theorem State.onStore_current (f : Store → Store) (s : State) (init' : Nat) :
    (s.onStore f).current init' = s.current init' := rfl

@[simp] theorem State.setSgiSources_prio (s : State) (c : Cpu) (i : Nat) (v : CpuMask) (irq' : Nat) (c' : Cpu) :
    (s.setSgiSources c i v).prio irq' c' = s.prio irq' c' := rfl
@[simp] theorem State.setSgiSources_targets (s : State) (c : Cpu) (i : Nat) (v : CpuMask) (irq' : Nat) :
    (s.setSgiSources c i v).targets irq' = s.targets irq' := rfl
@[simp] theorem State.setSgiSources_cpuIf (s : State) (c : Cpu) (i : Nat) (v : CpuMask) (c' : Cpu) :
    (s.setSgiSources c i v).cpuIf c' = s.cpuIf c' := rfl
@[simp] theorem State.setSgiSources_virtIf (s : State) (c : Cpu) (i : Nat) (v : CpuMask) (c' : Cpu) :
    (s.setSgiSources c i v).virtIf c' = s.virtIf c' := rfl
@[simp] theorem State.setSgiSources_arbOut (s : State) (c : Cpu) (i : Nat) (v : CpuMask) (c' : Cpu) :
    (s.setSgiSources c i v).arbOut c' = s.arbOut c' := rfl
@[simp] theorem State.setSgiSources_current (s : State) (c : Cpu) (i : Nat) (v : CpuMask) (init' : Nat) :
    (s.setSgiSources c i v).current init' = s.current init' := rfl

@[simp] theorem State.setDctlr_sgiSources (s : State) (v : BitVec 2) (c' : Cpu) (i' : Nat) :
    (s.setDctlr v).sgiSources c' i' = s.sgiSources c' i' := rfl
@[simp] theorem State.setDctlr_prio (s : State) (v : BitVec 2) (irq' : Nat) (c' : Cpu) :
    (s.setDctlr v).prio irq' c' = s.prio irq' c' := rfl
@[simp] theorem State.setDctlr_targets (s : State) (v : BitVec 2) (irq' : Nat) :
    (s.setDctlr v).targets irq' = s.targets irq' := rfl
@[simp] theorem State.setDctlr_cpuIf (s : State) (v : BitVec 2) (c' : Cpu) :
    (s.setDctlr v).cpuIf c' = s.cpuIf c' := rfl
@[simp] theorem State.setDctlr_virtIf (s : State) (v : BitVec 2) (c' : Cpu) :
    (s.setDctlr v).virtIf c' = s.virtIf c' := rfl
@[simp] theorem State.setDctlr_arbOut (s : State) (v : BitVec 2) (c' : Cpu) :
    (s.setDctlr v).arbOut c' = s.arbOut c' := rfl
@[simp] theorem State.setDctlr_current (s : State) (v : BitVec 2) (init' : Nat) :
    (s.setDctlr v).current init' = s.current init' := rfl

@[simp] theorem State.setPrioPriv_sgiSources (s : State) (c : Cpu) (irq : Nat) (v : Prio) (c' : Cpu) (i' : Nat) :
    (s.setPrioPriv c irq v).sgiSources c' i' = s.sgiSources c' i' := rfl
@[simp] theorem State.setPrioPriv_targets (s : State) (c : Cpu) (irq : Nat) (v : Prio) (irq' : Nat) :
    (s.setPrioPriv c irq v).targets irq' = s.targets irq' := rfl
@[simp] theorem State.setPrioPriv_cpuIf (s : State) (c : Cpu) (irq : Nat) (v : Prio) (c' : Cpu) :
    (s.setPrioPriv c irq v).cpuIf c' = s.cpuIf c' := rfl
@[simp] theorem State.setPrioPriv_virtIf (s : State) (c : Cpu) (irq : Nat) (v : Prio) (c' : Cpu) :
    (s.setPrioPriv c irq v).virtIf c' = s.virtIf c' := rfl
@[simp] theorem State.setPrioPriv_arbOut (s : State) (c : Cpu) (irq : Nat) (v : Prio) (c' : Cpu) :
    (s.setPrioPriv c irq v).arbOut c' = s.arbOut c' := rfl
@[simp] theorem State.setPrioPriv_current (s : State) (c : Cpu) (irq : Nat) (v : Prio) (init' : Nat) :
    (s.setPrioPriv c irq v).current init' = s.current init' := rfl

@[simp] theorem State.setPrioSpi_sgiSources (s : State) (irq : Nat) (v : Prio) (c' : Cpu) (i' : Nat) :
    (s.setPrioSpi irq v).sgiSources c' i' = s.sgiSources c' i' := by
  unfold State.setPrioSpi; split <;> rfl
@[simp] theorem State.setPrioSpi_targets (s : State) (irq : Nat) (v : Prio) (irq' : Nat) :
    (s.setPrioSpi irq v).targets irq' = s.targets irq' := by
  unfold State.setPrioSpi; split <;> rfl
@[simp] theorem State.setPrioSpi_cpuIf (s : State) (irq : Nat) (v : Prio) (c' : Cpu) :
    (s.setPrioSpi irq v).cpuIf c' = s.cpuIf c' := by
  unfold State.setPrioSpi; split <;> rfl
@[simp] theorem State.setPrioSpi_virtIf (s : State) (irq : Nat) (v : Prio) (c' : Cpu) :
    (s.setPrioSpi irq v).virtIf c' = s.virtIf c' := by
  unfold State.setPrioSpi; split <;> rfl
@[simp] theorem State.setPrioSpi_arbOut (s : State) (irq : Nat) (v : Prio) (c' : Cpu) :
    (s.setPrioSpi irq v).arbOut c' = s.arbOut c' := by
  unfold State.setPrioSpi; split <;> rfl
@[simp] theorem State.setPrioSpi_current (s : State) (irq : Nat) (v : Prio) (init' : Nat) :
    (s.setPrioSpi irq v).current init' = s.current init' := by
  unfold State.setPrioSpi; split <;> rfl

@[simp] theorem State.setTargets_sgiSources (s : State) (irq : Nat) (v : CpuMask) (c' : Cpu) (i' : Nat) :
    (s.setTargets irq v).sgiSources c' i' = s.sgiSources c' i' := by
  unfold State.setTargets; split <;> rfl
@[simp] theorem State.setTargets_prio (s : State) (irq : Nat) (v : CpuMask) (irq' : Nat) (c' : Cpu) :
    (s.setTargets irq v).prio irq' c' = s.prio irq' c' := by
  unfold State.setTargets; split <;> rfl
@[simp] theorem State.setTargets_cpuIf (s : State) (irq : Nat) (v : CpuMask) (c' : Cpu) :
    (s.setTargets irq v).cpuIf c' = s.cpuIf c' := by
  unfold State.setTargets; split <;> rfl
@[simp] theorem State.setTargets_virtIf (s : State) (irq : Nat) (v : CpuMask) (c' : Cpu) :
    (s.setTargets irq v).virtIf c' = s.virtIf c' := by
  unfold State.setTargets; split <;> rfl
@[simp] theorem State.setTargets_arbOut (s : State) (irq : Nat) (v : CpuMask) (c' : Cpu) :
    (s.setTargets irq v).arbOut c' = s.arbOut c' := by
  unfold State.setTargets; split <;> rfl
@[simp] theorem State.setTargets_current (s : State) (irq : Nat) (v : CpuMask) (init' : Nat) :
    (s.setTargets irq v).current init' = s.current init' := by
  unfold State.setTargets; split <;> rfl

@[simp] theorem State.setCpuIf_sgiSources (s : State) (c : Cpu) (r : CpuIf) (c' : Cpu) (i' : Nat) :
    (s.setCpuIf c r).sgiSources c' i' = s.sgiSources c' i' := rfl
@[simp] theorem State.setCpuIf_prio (s : State) (c : Cpu) (r : CpuIf) (irq' : Nat) (c' : Cpu) :
    (s.setCpuIf c r).prio irq' c' = s.prio irq' c' := rfl
@[simp] theorem State.setCpuIf_targets (s : State) (c : Cpu) (r : CpuIf) (irq' : Nat) :
    (s.setCpuIf c r).targets irq' = s.targets irq' := rfl
@[simp] theorem State.setCpuIf_virtIf (s : State) (c : Cpu) (r : CpuIf) (c' : Cpu) :
    (s.setCpuIf c r).virtIf c' = s.virtIf c' := rfl
@[simp] theorem State.setCpuIf_arbOut (s : State) (c : Cpu) (r : CpuIf) (c' : Cpu) :
    (s.setCpuIf c r).arbOut c' = s.arbOut c' := rfl
@[simp] theorem State.setCpuIf_current (s : State) (c : Cpu) (r : CpuIf) (init' : Nat) :
    (s.setCpuIf c r).current init' = s.current init' := rfl

@[simp] theorem State.setVirtIf_sgiSources (s : State) (c : Cpu) (v : VirtIf) (c' : Cpu) (i' : Nat) :
    (s.setVirtIf c v).sgiSources c' i' = s.sgiSources c' i' := rfl
@[simp] theorem State.setVirtIf_prio (s : State) (c : Cpu) (v : VirtIf) (irq' : Nat) (c' : Cpu) :
    (s.setVirtIf c v).prio irq' c' = s.prio irq' c' := rfl
@[simp] theorem State.setVirtIf_targets (s : State) (c : Cpu) (v : VirtIf) (irq' : Nat) :
    (s.setVirtIf c v).targets irq' = s.targets irq' := rfl
@[simp] theorem State.setVirtIf_cpuIf (s : State) (c : Cpu) (v : VirtIf) (c' : Cpu) :
    (s.setVirtIf c v).cpuIf c' = s.cpuIf c' := rfl
@[simp] theorem State.setVirtIf_arbOut (s : State) (c : Cpu) (v : VirtIf) (c' : Cpu) :
    (s.setVirtIf c v).arbOut c' = s.arbOut c' := rfl
@[simp] theorem State.setVirtIf_current (s : State) (c : Cpu) (v : VirtIf) (init' : Nat) :
    (s.setVirtIf c v).current init' = s.current init' := rfl

@[simp] theorem State.setOut_sgiSources (s : State) (resp : Option Response) (diag : List Diag) (c' : Cpu) (i' : Nat) :
    (s.setOut resp diag).sgiSources c' i' = s.sgiSources c' i' := rfl
@[simp] theorem State.setOut_prio (s : State) (resp : Option Response) (diag : List Diag) (irq' : Nat) (c' : Cpu) :
    (s.setOut resp diag).prio irq' c' = s.prio irq' c' := rfl
@[simp] theorem State.setOut_targets (s : State) (resp : Option Response) (diag : List Diag) (irq' : Nat) :
    (s.setOut resp diag).targets irq' = s.targets irq' := rfl
@[simp] theorem State.setOut_cpuIf (s : State) (resp : Option Response) (diag : List Diag) (c' : Cpu) :
    (s.setOut resp diag).cpuIf c' = s.cpuIf c' := rfl
@[simp] theorem State.setOut_virtIf (s : State) (resp : Option Response) (diag : List Diag) (c' : Cpu) :
    (s.setOut resp diag).virtIf c' = s.virtIf c' := rfl
@[simp] theorem State.setOut_arbOut (s : State) (resp : Option Response) (diag : List Diag) (c' : Cpu) :
    (s.setOut resp diag).arbOut c' = s.arbOut c' := rfl
@[simp] theorem State.setOut_current (s : State) (resp : Option Response) (diag : List Diag) (init' : Nat) :
    (s.setOut resp diag).current init' = s.current init' := rfl

@[simp] theorem State.respond_sgiSources (s : State) (init : Nat) (r : Response) (diag : List Diag) (c' : Cpu) (i' : Nat) :
    (s.respond init r diag).sgiSources c' i' = s.sgiSources c' i' := rfl
@[simp] theorem State.respond_prio (s : State) (init : Nat) (r : Response) (diag : List Diag) (irq' : Nat) (c' : Cpu) :
    (s.respond init r diag).prio irq' c' = s.prio irq' c' := rfl
@[simp] theorem State.respond_targets (s : State) (init : Nat) (r : Response) (diag : List Diag) (irq' : Nat) :
    (s.respond init r diag).targets irq' = s.targets irq' := rfl
@[simp] theorem State.respond_cpuIf (s : State) (init : Nat) (r : Response) (diag : List Diag) (c' : Cpu) :
    (s.respond init r diag).cpuIf c' = s.cpuIf c' := rfl
@[simp] theorem State.respond_virtIf (s : State) (init : Nat) (r : Response) (diag : List Diag) (c' : Cpu) :
    (s.respond init r diag).virtIf c' = s.virtIf c' := rfl
@[simp] theorem State.respond_arbOut (s : State) (init : Nat) (r : Response) (diag : List Diag) (c' : Cpu) :
    (s.respond init r diag).arbOut c' = s.arbOut c' := rfl
@[simp] theorem State.respond_current (s : State) (init : Nat) (r : Response) (diag : List Diag) (init' : Nat) :
    (s.respond init r diag).current init' = s.current init' := rfl

@[simp] theorem State.deliver_sgiSources (s : State) (r : Request) (c' : Cpu) (i' : Nat) :
    (s.deliver r).sgiSources c' i' = s.sgiSources c' i' := rfl
@[simp] theorem State.deliver_prio (s : State) (r : Request) (irq' : Nat) (c' : Cpu) :
    (s.deliver r).prio irq' c' = s.prio irq' c' := rfl
@[simp] theorem State.deliver_targets (s : State) (r : Request) (irq' : Nat) :
    (s.deliver r).targets irq' = s.targets irq' := rfl
@[simp] theorem State.deliver_cpuIf (s : State) (r : Request) (c' : Cpu) :
    (s.deliver r).cpuIf c' = s.cpuIf c' := rfl
@[simp] theorem State.deliver_virtIf (s : State) (r : Request) (c' : Cpu) :
    (s.deliver r).virtIf c' = s.virtIf c' := rfl
@[simp] theorem State.deliver_arbOut (s : State) (r : Request) (c' : Cpu) :
    (s.deliver r).arbOut c' = s.arbOut c' := rfl
@[simp] theorem State.deliver_current (s : State) (r : Request) (init' : Nat) :
    (s.deliver r).current init' = s.current init' := rfl

@[simp] theorem update_sgiSources (s : State) (c' : Cpu) (i' : Nat) :
    (update s).sgiSources c' i' = s.sgiSources c' i' := rfl
@[simp] theorem update_prio (s : State) (irq' : Nat) (c' : Cpu) :
    (update s).prio irq' c' = s.prio irq' c' := rfl
@[simp] theorem update_targets (s : State) (irq' : Nat) :
    (update s).targets irq' = s.targets irq' := rfl
@[simp] theorem update_cpuIf (s : State) (c' : Cpu) :
    (update s).cpuIf c' = s.cpuIf c' := rfl
@[simp] theorem update_virtIf (s : State) (c' : Cpu) :
    (update s).virtIf c' = s.virtIf c' := rfl
@[simp] theorem update_current (s : State) (init' : Nat) :
    (update s).current init' = s.current init' := rfl

/-! ## A list register of a virtual interface -/

@[simp] theorem VirtIf.setListReg_hcr (v : VirtIf) (i : LrIx) (e : ListReg) : (v.setListReg i e).hcr = v.hcr := rfl
@[simp] theorem VirtIf.setListReg_apr (v : VirtIf) (i : LrIx) (e : ListReg) : (v.setListReg i e).apr = v.apr := rfl
@[simp] theorem VirtIf.setListReg_ctlr (v : VirtIf) (i : LrIx) (e : ListReg) : (v.setListReg i e).ctlr = v.ctlr := rfl
@[simp] theorem VirtIf.setListReg_pmr (v : VirtIf) (i : LrIx) (e : ListReg) : (v.setListReg i e).pmr = v.pmr := rfl
@[simp] theorem VirtIf.setListReg_bpr (v : VirtIf) (i : LrIx) (e : ListReg) : (v.setListReg i e).bpr = v.bpr := rfl
@[simp] theorem VirtIf.setListReg_abpr (v : VirtIf) (i : LrIx) (e : ListReg) : (v.setListReg i e).abpr = v.abpr := rfl
@[simp] theorem VirtIf.setListReg_rpr (v : VirtIf) (i : LrIx) (e : ListReg) : (v.setListReg i e).rpr = v.rpr := rfl

/-! ## The state after reset -/

@[simp] theorem State.resetWith_params (p : Params) : (State.resetWith p).params = p := rfl
@[simp] theorem State.resetWith_store (p : Params) : (State.resetWith p).store = Store.reset := rfl
@[simp] theorem State.resetWith_dctlr (p : Params) : (State.resetWith p).dctlr = 0#2 := rfl

end Sys2Proof.Machine
end

