-- ==== Sys2Proof/Laws/Tables.lean ====
section
/-! SUPPORT. Read after write, for every table of the state. -/

namespace Sys2Proof.Machine

/-! ## Per-CPU entries -/

/-- The CPU interfaces after one is written. -/
theorem State.setCpuIf_cpuIf (s : State) (c d : Cpu) (r : CpuIf) :
    (s.setCpuIf c r).cpuIf d = if d = c then r else s.cpuIf d := by
  simp only [State.setCpuIf, State.cpuIf, Vector.getElem_set, Fin.ext_iff, eq_comm]

@[simp] theorem State.setCpuIf_cpuIf_self (s : State) (c : Cpu) (r : CpuIf) : (s.setCpuIf c r).cpuIf c = r := by
  simp [State.setCpuIf_cpuIf]

/-- The virtual interfaces after one is written. -/
theorem State.setVirtIf_virtIf (s : State) (c d : Cpu) (v : VirtIf) :
    (s.setVirtIf c v).virtIf d = if d = c then v else s.virtIf d := by
  simp only [State.setVirtIf, State.virtIf, Vector.getElem_set, Fin.ext_iff, eq_comm]

@[simp] theorem State.setVirtIf_virtIf_self (s : State) (c : Cpu) (v : VirtIf) : (s.setVirtIf c v).virtIf c = v := by
  simp [State.setVirtIf_virtIf]

/-- The list registers after one is written. -/
theorem VirtIf.setListReg_listReg (v : VirtIf) (i j : LrIx) (e : ListReg) :
    (v.setListReg i e).listReg j = if j = i then e else v.listReg j := by
  simp only [VirtIf.setListReg, VirtIf.listReg, Vector.getElem_set, Fin.ext_iff, eq_comm]

@[simp] theorem VirtIf.setListReg_listReg_self (v : VirtIf) (i : LrIx) (e : ListReg) :
    (v.setListReg i e).listReg i = e := by simp [VirtIf.setListReg_listReg]

/-- An entry of a per-CPU table built by `perCpu`. -/
@[simp] theorem perCpu_getElem {α : Type} (f : Cpu → α) (c : Cpu) : (perCpu f)[c.val] = f c := by
  fin_cases c <;> rfl

/-- UPDATE's results: those of the pass for a connected CPU, and the old ones for any other (R400). -/
@[simp] theorem update_arbOut (s : State) (c : Cpu) :
    (update s).arbOut c = if c.val < s.params.numCpu then arbFor s c else s.arbOut c := by
  simp [State.arbOut]

/-! ## Byte tables -/

/-- A byte table after an entry is written. -/
theorem tabGet_setIfInBounds {n : Nat} (t : Vector Byte n) (i j : Nat) (v : Byte) :
    tabGet (t.setIfInBounds i v) j = if j = i ∧ i < n then v else tabGet t j := by
  simp only [tabGet]
  by_cases h : j = i
  · subst h
    by_cases hi : j < n <;> simp [hi]
  · simp [h, Ne.symm h]

/-- A byte table read inside its bounds. -/
theorem tabGet_of_lt {n : Nat} (t : Vector Byte n) (i : Nat) (h : i < n) : tabGet t i = t[i] := by
  simp [tabGet, h]

/-- A byte table read outside its bounds. -/
theorem tabGet_of_le {n : Nat} (t : Vector Byte n) (i : Nat) (h : n ≤ i) : tabGet t i = 0#8 := by
  simp [tabGet, Nat.not_lt.mpr h]

@[simp] theorem tabGet_replicate {n : Nat} (i : Nat) : tabGet (Vector.replicate n 0#8) i = 0#8 := by
  by_cases h : i < n <;> simp [tabGet, h]

/-- Equal entries, equal tables. -/
theorem tab_ext {n : Nat} {t u : Vector Byte n} (h : ∀ i, i < n → tabGet t i = tabGet u i) : t = u := by
  refine Vector.ext fun i hi => ?_
  simpa [tabGet_of_lt, hi] using h i hi

/-- A per-CPU byte table after an entry is written. -/
theorem bankGet_bankSet {n : Nat} (t : Vector (Vector Byte n) 8) (c d : Cpu) (i j : Nat) (v : Byte) :
    bankGet (bankSet t c i v) d j = if d = c ∧ j = i ∧ i < n then v else bankGet t d j := by
  simp only [bankGet, bankSet, Vector.getElem_set]
  by_cases h : c.val = d.val
  · obtain rfl : c = d := Fin.ext h
    simp [tabGet_setIfInBounds]
  · have : ¬d = c := fun e => h (by rw [e])
    simp [h, this]

@[simp] theorem bankGet_replicate {n : Nat} (c : Cpu) (i : Nat) :
    bankGet (Vector.replicate 8 (Vector.replicate n 0#8)) c i = 0#8 := by simp [bankGet]

/-- The SGI sources after an entry is written (R36). -/
theorem State.setSgiSources_sgiSources (s : State) (c d : Cpu) (i j : Nat) (v : CpuMask) :
    (s.setSgiSources c i v).sgiSources d j = if d = c ∧ j = i ∧ i < 16 then v else s.sgiSources d j :=
  bankGet_bankSet ..

/-- The priorities after a write of a private one (R38, R40). -/
theorem State.setPrioPriv_prio (s : State) (c d : Cpu) (irq j : Nat) (v : Prio) :
    (s.setPrioPriv c irq v).prio j d = if d = c ∧ j = irq ∧ irq < 32 then v else s.prio j d := by
  simp only [State.prio, State.setPrioPriv_prioPriv, State.setPrioPriv_prioSpi, bankGet_bankSet, nPriv]
  split
  · rfl
  · rw [if_neg (by omega)]

/-- The priorities after a write of an SPI's (R38, R40). -/
theorem State.setPrioSpi_prio (s : State) (d : Cpu) (irq j : Nat) (v : Prio) :
    (s.setPrioSpi irq v).prio j d = if j = irq ∧ 32 ≤ irq ∧ irq < 512 then v else s.prio j d := by
  simp only [State.prio, State.setPrioSpi_prioPriv, State.setPrioSpi_prioSpi, nPriv]
  split_ifs <;> first | rfl | omega | (rw [tabGet_setIfInBounds]; split_ifs <;> first | rfl | omega)

/-- The targets after one is written (R39). -/
theorem State.setTargets_targets (s : State) (irq j : Nat) (v : CpuMask) (hj : 32 ≤ j) :
    (s.setTargets irq v).targets j = if j = irq ∧ irq < 512 then v else s.targets j := by
  simp only [State.targets, State.setTargets_itargets, nPriv]
  split_ifs <;> first | rfl | omega | (rw [tabGet_setIfInBounds]; split_ifs <;> first | rfl | omega)

/-! ## The masks of the store -/

/-- A mask table after a mutator (R161, R164). -/
theorem maskAt_setMask (t : Vector CpuMask 512) (irq j : Nat) (v : Bool) (m : CpuMask) :
    maskAt (setMask t irq v m) j =
      if j = irq ∧ irq < 512 then (if v then maskAt t irq ||| m else maskAt t irq &&& ~~~m) else maskAt t j :=
  tabGet_setIfInBounds ..

/-- A mask table after a mutator, at an ID in range. -/
theorem maskAt_setMask_irq (t : Vector CpuMask 512) (irq : Nat) (j : Irq) (v : Bool) (m : CpuMask) :
    maskAt (setMask t irq v m) j.val =
      if j.val = irq then (if v then maskAt t irq ||| m else maskAt t irq &&& ~~~m) else maskAt t j.val := by
  have := j.isLt
  rw [maskAt_setMask]
  split_ifs <;> first | rfl | omega

/-- Equal masks, equal tables. -/
theorem mask_ext {t u : Vector CpuMask 512} (h : ∀ i, i < 512 → maskAt t i = maskAt u i) : t = u := tab_ext h

@[simp] theorem maskAt_replicate (i : Nat) : maskAt (Vector.replicate 512 0#8) i = 0#8 := tabGet_replicate i

/-- The trigger modes after SET_TRIGGER (R163). -/
theorem Store.setTrigger_triggerOf (st : Store) (irq j : Nat) (mode : Trigger) :
    (st.setTrigger irq mode).triggerOf j =
      if j = irq ∧ 16 ≤ irq ∧ irq < 512 then mode else st.triggerOf j := by
  simp only [Store.triggerOf, Store.setTrigger_trigger, nSgi]
  by_cases hj : j < 16
  · rw [if_pos hj, if_pos hj, if_neg (by omega)]
  · rw [if_neg hj, if_neg hj]
    split_ifs with h1 h2 h2
    · obtain ⟨rfl, -, h⟩ := h2
      rw [Vector.getElem?_setIfInBounds_self_of_lt (by omega)]; rfl
    · by_cases h : irq - 16 = j - 16
      · have : ¬ irq < 512 := fun hl => h2 ⟨by omega, h1, hl⟩
        rw [Vector.setIfInBounds_eq_of_size_le (by omega)]
      · rw [Vector.getElem?_setIfInBounds_ne (by omega)]
    · omega
    · rfl

/-- The trigger modes depend on the trigger table alone. -/
theorem Store.triggerOf_congr {st st' : Store} (h : st'.trigger = st.trigger) (irq : Nat) :
    st'.triggerOf irq = st.triggerOf irq := by simp only [Store.triggerOf, h]

end Sys2Proof.Machine
end

