-- ==== Sys2Proof/Laws/Operands.lean ====
section
/-! SUPPORT. What each operand form, bit scan and lane operation of Machine/Operands.lean gives. -/

namespace Sys2Proof.Machine

/-! ## Masks -/

theorem bit_getLsbD (c d : Cpu) : (bit c.val).getLsbD d.val = decide (d = c) := by
  revert c d; decide

/-- The mask of an SGI or PPI is the one CPU, that of an SPI is every CPU (R32, R33). -/
theorem maskFor_eq (irq : Nat) (c : Cpu) : maskFor irq c = if irq < 32 then bit c.val else allCpus := by
  simp only [maskFor, modelOf, nPriv]
  split_ifs <;> rfl

theorem allCpus_getLsbD (d : Cpu) : allCpus.getLsbD d.val = true := by revert d; decide

theorem maskFor_getLsbD (irq : Nat) (c d : Cpu) :
    (maskFor irq c).getLsbD d.val = (decide (32 ≤ irq) || decide (d = c)) := by
  rw [maskFor_eq]
  split_ifs with h
  · rw [bit_getLsbD, decide_eq_false (p := 32 ≤ irq) (by omega), Bool.false_or]
  · rw [allCpus_getLsbD, decide_eq_true (p := 32 ≤ irq) (by omega), Bool.true_or]

/-- CPU masks with equal bits are equal. -/
theorem mask_eq_of_bits {m m' : CpuMask} (h : ∀ c : Cpu, m.getLsbD c.val = m'.getLsbD c.val) : m = m' :=
  BitVec.eq_of_getLsbD_eq fun i hi => h ⟨i, hi⟩

/-- A mask is 0 when no CPU's bit is set. -/
theorem mask_eq_zero_iff (m : CpuMask) : m = 0#8 ↔ ∀ c : Cpu, m.getLsbD c.val = false := by
  constructor
  · rintro rfl c; exact BitVec.getLsbD_zero
  · intro h; exact mask_eq_of_bits fun c => (h c).trans BitVec.getLsbD_zero.symm

/-- Whether a mask meets one CPU's bit (R33). -/
theorem and_bit_ne_zero_iff (m : CpuMask) (c : Cpu) : m &&& bit c.val ≠ 0#8 ↔ m.getLsbD c.val = true := by
  rw [ne_eq, mask_eq_zero_iff]
  constructor
  · intro h
    by_contra hc
    refine h fun d => ?_
    rw [BitVec.getLsbD_and, bit_getLsbD]
    by_cases hd : d = c
    · subst hd; simp only [Bool.not_eq_true] at hc; rw [hc, Bool.false_and]
    · rw [decide_eq_false hd, Bool.and_false]
  · intro h hz
    have := hz c
    rw [BitVec.getLsbD_and, bit_getLsbD, h] at this
    simp at this

/-- A predicate of the store is true when some bit the mask selects is set (R162). -/
theorem testMask_iff (t : Vector CpuMask 512) (irq : Nat) (m : CpuMask) :
    testMask t irq m = true ↔ maskAt t irq &&& m ≠ 0#8 := by simp [testMask]

theorem testMask_eq (t : Vector CpuMask 512) (irq : Nat) (m : CpuMask) :
    testMask t irq m = decide (maskAt t irq &&& m ≠ 0#8) := by
  rw [Bool.eq_iff_iff, testMask_iff, decide_eq_true_iff]

theorem Store.isEnabled_eq (st : Store) (irq : Nat) (m : CpuMask) :
    st.isEnabled irq m = decide (maskAt st.enabled irq &&& m ≠ 0#8) := testMask_eq ..

theorem Store.isPending_eq (st : Store) (irq : Nat) (m : CpuMask) :
    st.isPending irq m = decide (maskAt st.pending irq &&& m ≠ 0#8) := testMask_eq ..

theorem Store.isActive_eq (st : Store) (irq : Nat) (m : CpuMask) :
    st.isActive irq m = decide (maskAt st.active irq &&& m ≠ 0#8) := testMask_eq ..

theorem Store.isLevel_eq (st : Store) (irq : Nat) (m : CpuMask) :
    st.isLevel irq m = decide (maskAt st.level irq &&& m ≠ 0#8) := testMask_eq ..

theorem Store.isSignaled_eq (st : Store) (irq : Nat) (m : CpuMask) :
    st.isSignaled irq m = decide (maskAt st.signaled irq &&& m ≠ 0#8) := testMask_eq ..

/-- A mutator, bit by bit (R161, R164). -/
theorem setMask_getLsbD (t : Vector CpuMask 512) (irq : Nat) (v : Bool) (m : CpuMask) (j : Nat) (c : Cpu) :
    (maskAt (setMask t irq v m) j).getLsbD c.val =
      if j = irq ∧ irq < 512 ∧ m.getLsbD c.val = true then v else (maskAt t j).getLsbD c.val := by
  have hc := c.isLt
  rw [maskAt_setMask]
  by_cases h : j = irq ∧ irq < 512
  · obtain ⟨rfl, h⟩ := h
    rw [if_pos ⟨rfl, h⟩]
    cases v <;> cases hm : m.getLsbD c.val <;>
      simp only [BitVec.getLsbD_or, BitVec.getLsbD_and, BitVec.getLsbD_not, hm, h, hc, Bool.false_eq_true, if_false,
        if_true, decide_true, and_self, and_false, Bool.not_true, Bool.not_false, Bool.and_true, Bool.and_false,
        Bool.or_true, Bool.or_false]
  · rw [if_neg h, if_neg (fun hh => h ⟨hh.1, hh.2.1⟩)]

/-! ## Bit scans (R14) -/

/-- `lowest_set` finds the lowest bit that is set. -/
theorem lowestSet_eq {w : Nat} (m : BitVec w) (j : Nat) (hb : m.getLsbD j = true)
    (hl : ∀ k, k < j → m.getLsbD k = false) : lowestSet m = j := by
  have hw : j < w := BitVec.lt_of_getLsbD hb
  have : (List.range w).find? (fun i => m.getLsbD i) = some j := by
    rw [List.find?_range_eq_some]
    exact ⟨hb, List.mem_range.mpr hw, fun k hk => by simp [hl k hk]⟩
  simp [lowestSet, this]

/-- `highest_set` finds the highest bit that is set. -/
theorem highestSet_eq {w : Nat} (m : BitVec w) (j : Nat) (hb : m.getLsbD j = true)
    (hl : ∀ k, j < k → m.getLsbD k = false) : highestSet m = j := by
  have hw : j < w := BitVec.lt_of_getLsbD hb
  have key : ∀ n, j < n → (List.range n).reverse.find? (fun i => m.getLsbD i) = some j := by
    intro n
    induction n with
    | zero => intro h; omega
    | succ n ih =>
      intro h
      rw [List.range_succ, List.reverse_append, List.reverse_singleton, List.singleton_append, List.find?_cons]
      by_cases hn : n = j
      · subst hn; simp [hb]
      · rw [hl n (by omega)]
        exact ih (by omega)
  simp [highestSet, key w hw]

/-- The scans name a bit that is set, when there is one. -/
theorem lowestSet_bit {w : Nat} (m : BitVec w) (h : m ≠ 0#w) :
    m.getLsbD (lowestSet m) = true ∧ ∀ k, k < lowestSet m → m.getLsbD k = false := by
  classical
  have hex : ∃ j, m.getLsbD j = true := by
    by_contra hc
    simp only [not_exists, Bool.not_eq_true] at hc
    exact h (BitVec.eq_of_getLsbD_eq fun i _ => (hc i).trans BitVec.getLsbD_zero.symm)
  have h1 := Nat.find_spec hex
  have h2 : ∀ k, k < Nat.find hex → m.getLsbD k = false := fun k hk => by
    simpa using Nat.find_min hex hk
  rw [lowestSet_eq m _ h1 h2]
  exact ⟨h1, h2⟩

theorem highestSet_bit {w : Nat} (m : BitVec w) (h : m ≠ 0#w) :
    m.getLsbD (highestSet m) = true ∧ ∀ k, highestSet m < k → m.getLsbD k = false := by
  classical
  have hex : ∃ i, i < w ∧ m.getLsbD (w - 1 - i) = true := by
    by_contra hc
    simp only [not_exists, not_and, Bool.not_eq_true] at hc
    refine h (BitVec.eq_of_getLsbD_eq fun i hi => ?_)
    have := hc (w - 1 - i) (by omega)
    rw [show w - 1 - (w - 1 - i) = i by omega] at this
    exact this.trans BitVec.getLsbD_zero.symm
  obtain ⟨hi, h1⟩ := Nat.find_spec hex
  have h2 : ∀ k, w - 1 - Nat.find hex < k → m.getLsbD k = false := fun k hk => by
    by_cases hkw : k < w
    · have hn := Nat.find_min hex (m := w - 1 - k) (by omega)
      rw [not_and, show w - 1 - (w - 1 - k) = k by omega] at hn
      simpa using hn (by omega)
    · exact BitVec.getLsbD_of_ge _ _ (by omega)
  rw [highestSet_eq m _ h1 h2]
  exact ⟨h1, h2⟩

/-! ## Lanes (R83, R125, R126, R127) -/

/-- Bit `b` of a packed word is `f b` (R125). -/
theorem packBits_getLsbD (f : Nat → Bool) (b : Nat) (h : b < 32) : (packBits f).getLsbD b = f b := by
  simp [packBits, h]

/-- Bit `j` of the first `m` bytes `f 0, f 1, …` joined in a word. -/
theorem joinBytes_getLsbD (f : Nat → Byte) (m j : Nat) (hj : j < 32) :
    ((List.range m).foldl (fun w k => w ||| ((f k).setWidth 32 <<< (8 * k))) 0#32).getLsbD j =
      (decide (j / 8 < m) && (f (j / 8)).getLsbD (j % 8)) := by
  induction m with
  | zero => simp
  | succ m ih =>
    rw [List.range_succ, List.foldl_append, List.foldl_cons, List.foldl_nil, BitVec.getLsbD_or, ih,
      BitVec.getLsbD_shiftLeft, BitVec.getLsbD_setWidth, decide_eq_true hj, Bool.true_and,
      decide_eq_true (p := j - 8 * m < 32) (by omega), Bool.true_and]
    rcases Nat.lt_trichotomy (j / 8) m with h | h | h
    · rw [decide_eq_true h, decide_eq_true (p := j < 8 * m) (by omega), decide_eq_true (p := j / 8 < m + 1) (by omega)]
      simp
    · subst h
      rw [decide_eq_false (p := j < 8 * (j / 8)) (by omega), show j - 8 * (j / 8) = j % 8 by omega]
      simp
    · rw [decide_eq_false (p := j / 8 < m) (by omega), decide_eq_false (p := j / 8 < m + 1) (by omega),
        BitVec.getLsbD_of_ge (f m) (j - 8 * m) (by omega)]
      simp

/-- Byte `k` of a packed read is `f k`, and the bytes above the width are 0 (R83). -/
theorem packBytes_byte (n : Width) (f : Nat → Byte) (k : Nat) (hk : k < 4) :
    (packBytes n f).extractLsb' (8 * k) 8 = if k < n.bytes then f k else 0#8 := by
  refine BitVec.eq_of_getLsbD_eq fun i hi => ?_
  rw [BitVec.getLsbD_extractLsb', packBytes, joinBytes_getLsbD _ _ _ (by omega), decide_eq_true hi, Bool.true_and,
    show (8 * k + i) / 8 = k by omega, show (8 * k + i) % 8 = i by omega]
  split_ifs with h
  · rw [decide_eq_true h, Bool.true_and]
  · rw [decide_eq_false h, Bool.false_and, BitVec.getLsbD_zero]

/-- The byte of a written word, in `extractLsb'` form (R83). -/
theorem byteOf_eq (data : Word) (k : Nat) : byteOf data k = data.extractLsb' (8 * k) 8 := rfl

/-! ## Scans as folds

One lemma for the value that a scan leaves at one place, and one for what it leaves alone. -/

/-- A fold keeps what each of its steps keeps. -/
theorem foldl_keep {σ α β : Type} (obs : σ → α) (f : σ → β → σ) (l : List β) (h : ∀ x b, b ∈ l → obs (f x b) = obs x)
    (x : σ) : obs (l.foldl f x) = obs x := by
  induction l generalizing x with
  | nil => rfl
  | cons b l ih =>
    rw [List.foldl_cons, ih (fun x b hb => h x b (List.mem_cons_of_mem _ hb)), h x b List.mem_cons_self]

/-- A fold keeps an invariant that each of its steps keeps. -/
theorem foldl_inv {σ β : Type} (P : σ → Prop) (f : σ → β → σ) (l : List β) (h : ∀ x b, b ∈ l → P x → P (f x b))
    (x : σ) (hx : P x) : P (l.foldl f x) := by
  induction l generalizing x with
  | nil => exact hx
  | cons b l ih =>
    exact ih (fun x b hb => h x b (List.mem_cons_of_mem _ hb)) _ (h x b List.mem_cons_self hx)

/-- A scan over 0..m-1 whose step `k` touches one place when `k = i`, and leaves it otherwise. -/
theorem foldl_range_at {σ α : Type} (obs : σ → α) (f : σ → Nat → σ) (g : α → α) (i m : Nat)
    (hi : ∀ x, obs (f x i) = g (obs x)) (ho : ∀ x k, k < m → k ≠ i → obs (f x k) = obs x) (x : σ) :
    obs ((List.range m).foldl f x) = if i < m then g (obs x) else obs x := by
  induction m with
  | zero => simp
  | succ m ih =>
    rw [List.range_succ, List.foldl_append, List.foldl_cons, List.foldl_nil]
    have ih := ih fun x k hk => ho x k (by omega)
    by_cases h : m = i
    · subst h
      rw [hi, ih, if_neg (by omega), if_pos (by omega)]
    · rw [ho _ _ (by omega) h, ih]
      split_ifs <;> first | rfl | omega

/-- A fold that a projection commutes with. -/
theorem foldl_proj {σ τ β : Type} (h : σ → τ) (f : σ → β → σ) (g : τ → β → τ) (l : List β)
    (hfg : ∀ x b, h (f x b) = g (h x) b) (x : σ) : h (l.foldl f x) = l.foldl g (h x) := by
  induction l generalizing x with
  | nil => rfl
  | cons b l ih => rw [List.foldl_cons, List.foldl_cons, ih, hfg]

/-- What `forBytes` leaves at the place `i` of an array, when byte `k` of the access touches the place `first + k`. -/
theorem forBytes_at {σ α : Type} (n : Width) (obs : σ → α) (f : Nat → σ → σ) (g : Nat → α → α) (first i : Nat)
    (hi : ∀ x k, first + k = i → obs (f k x) = g k (obs x)) (ho : ∀ x k, first + k ≠ i → obs (f k x) = obs x) (x : σ) :
    obs (forBytes n f x) = if first ≤ i ∧ i < first + n.bytes then g (i - first) (obs x) else obs x := by
  by_cases h : first ≤ i
  · have := foldl_range_at obs (fun x k => f k x) (g (i - first)) (i - first) n.bytes
      (fun x => hi x _ (by omega)) (fun x k _ hk => ho x k (by omega)) x
    rw [forBytes, this]
    split_ifs <;> first | rfl | omega
  · rw [if_neg (by omega), forBytes]
    exact foldl_keep obs _ _ (fun x k _ => ho x k (by omega)) x

/-- What `forSetBits` leaves at place `b`, when bit `b` of the data touches it. -/
theorem forSetBits_at {σ α : Type} (data : Word) (obs : σ → α) (f : Nat → σ → σ) (g : α → α) (b : Nat)
    (hi : ∀ x, obs (f b x) = g (obs x)) (ho : ∀ x k, k < 32 → k ≠ b → obs (f k x) = obs x) (x : σ) :
    obs (forSetBits data f x) = if data.getLsbD b then g (obs x) else obs x := by
  have := foldl_range_at obs (fun x k => if data.getLsbD k then f k x else x)
    (fun a => if data.getLsbD b then g a else a) b 32
    (fun x => by
      show obs (if data.getLsbD b then f b x else x) = _
      split_ifs <;> simp [hi])
    (fun x k hk hne => by
      show obs (if data.getLsbD k then f k x else x) = _
      split_ifs
      · exact ho x k hk hne
      · rfl) x
  rw [forSetBits, this]
  by_cases hb : b < 32
  · rw [if_pos hb]
  · rw [if_neg hb, BitVec.getLsbD_of_ge _ _ (by omega)]; rfl

/-- `forSetBits` keeps what each of its steps keeps. -/
theorem forSetBits_keep {σ α : Type} (data : Word) (obs : σ → α) (f : Nat → σ → σ)
    (h : ∀ x b, b < 32 → data.getLsbD b = true → obs (f b x) = obs x) (x : σ) : obs (forSetBits data f x) = obs x := by
  refine foldl_keep obs _ _ (fun x b hb => ?_) x
  split_ifs with hd
  · exact h x b (List.mem_range.mp hb) hd
  · rfl

/-- `forBytes` keeps what each of its steps keeps. -/
theorem forBytes_keep {σ α : Type} (n : Width) (obs : σ → α) (f : Nat → σ → σ) (h : ∀ x k, obs (f k x) = obs x)
    (x : σ) : obs (forBytes n f x) = obs x := foldl_keep obs _ _ (fun x k _ => h x k) x

/-! ## Words and their fields -/

/-- The value of an interrupt-ID word (R129). -/
theorem intidWord_toNat (id src : Nat) (hi : id < 1024) (hs : src < 8) : (intidWord id src).toNat = id + 1024 * src := by
  have h1 : (BitVec.ofNat 32 id).toNat = id := by rw [BitVec.toNat_ofNat]; omega
  have h2 : (BitVec.ofNat 32 src <<< 10).toNat = 1024 * src := by
    rw [BitVec.toNat_shiftLeft, BitVec.toNat_ofNat, Nat.shiftLeft_eq]; omega
  rw [intidWord, BitVec.toNat_or, h1, h2, Nat.or_comm, Nat.add_comm id,
    show 1024 * src = 2 ^ 10 * src from rfl, Nat.two_pow_add_eq_or_of_lt hi]

/-- The ID an end-of-interrupt write names (R129). -/
theorem eoirId_eq (data : Word) : eoirId data = data.toNat % 1024 := by
  simp [eoirId, BitVec.extractLsb'_toNat]

theorem eoirId_lt (data : Word) : eoirId data < 1024 := by rw [eoirId_eq]; exact Nat.mod_lt _ (by decide)

/-- The trigger mode of a field is EDGE for 0b10 and LEVEL otherwise (R127). -/
theorem triggerOfField_eq (f : BitVec 2) : triggerOfField f = if f = 2#2 then .edge else .level := rfl

/-- The bits of what a list register reads as (R323). -/
theorem listRegWord_getLsbD (e : ListReg) (b : Nat) (hb : b < 32) :
    (listRegWord e).getLsbD b =
      if b = 29 then e.active else if b = 28 then e.pending else e.raw.getLsbD b := by
  have h1 : ∀ x : Bool, ∀ k < 32, ∀ b < 32, ((BitVec.ofBool x).setWidth 32 <<< k).getLsbD b = (decide (b = k) && x) := by
    decide +kernel
  have h2 : ∀ b < 32, (~~~0x30000000#32).getLsbD b = (decide (b ≠ 28) && decide (b ≠ 29)) := by decide +kernel
  rw [listRegWord, BitVec.getLsbD_or, BitVec.getLsbD_or, BitVec.getLsbD_and, h1 _ _ (by omega) _ hb,
    h1 _ _ (by omega) _ hb, h2 b hb]
  by_cases h29 : b = 29
  · subst h29; simp
  · by_cases h28 : b = 28
    · subst h28; simp
    · simp [h28, h29]

/-- A list register just written reads as the word written (R322, R323). -/
theorem listRegWord_listRegOfWord (data : Word) : listRegWord (listRegOfWord data) = data := by
  refine BitVec.eq_of_getLsbD_eq fun b hb => ?_
  rw [listRegWord_getLsbD _ _ hb]
  split_ifs with h h' <;> simp [listRegOfWord, *]

/-! ## Preemption levels (R333, R370) -/

/-- `apr_prio` of a bitmask with `b` as the bit APR_SELECT names (R333). -/
theorem aprPrio_of_bit (sel : AprSelect) (a : Word) (h : a ≠ 0#32) :
    (aprPrio sel a).toNat = 8 * aprBit sel a ∧ aprBit sel a < 32 ∧ a.getLsbD (aprBit sel a) = true := by
  have hb : a.getLsbD (aprBit sel a) = true := by
    cases sel
    · exact (highestSet_bit a h).1
    · exact (lowestSet_bit a h).1
  have hlt := BitVec.lt_of_getLsbD hb
  refine ⟨?_, hlt, hb⟩
  rw [aprPrio, if_neg h, BitVec.toNat_ofNat, vprioShift, Nat.shiftLeft_eq]
  omega

@[simp] theorem aprPrio_zero (sel : AprSelect) : aprPrio sel 0#32 = idlePrio := by simp [aprPrio]

/-- Popping clears exactly the bit APR_SELECT names (R370). -/
theorem aprPop_getLsbD (sel : AprSelect) (a : Word) (b : Nat) (h : a ≠ 0#32) :
    (aprPop sel a).getLsbD b = (a.getLsbD b && decide (b ≠ aprBit sel a)) := by
  by_cases hb : b < 32
  · have hk := (aprPrio_of_bit sel a h).2.1
    have h1 : ∀ k < 32, ∀ b < 32, (~~~(1#32 <<< k)).getLsbD b = decide (b ≠ k) := by decide +kernel
    rw [aprPop, if_neg h, BitVec.getLsbD_and, h1 _ hk _ hb]
  · rw [BitVec.getLsbD_of_ge _ _ (by omega), BitVec.getLsbD_of_ge _ _ (by omega), Bool.false_and]

@[simp] theorem aprPop_zero (sel : AprSelect) : aprPop sel 0#32 = 0#32 := by simp [aprPop]

end Sys2Proof.Machine
end

