-- ==== Sys2Proof/Laws/Store.lean ====
section
/-! SUPPORT. What the operations on the interrupt state store can do: DEACTIVATE, the writes of the one-bit-per-ID
registers, the trigger configuration, and the line events. -/

namespace Sys2Proof.Machine

/-- A mutator writes one entry of its table (R161). -/
theorem tableWith_setMask (t : Vector CpuMask 512) (irq : Nat) (v : Bool) (m : CpuMask) :
    TableWith t (setMask t irq v m) irq (if v then maskAt t irq ||| m else maskAt t irq &&& ~~~m) :=
  fun j => maskAt_setMask_irq t irq j v m

/-- A table with an unchanged entry. -/
theorem tableWith_self (t : Vector CpuMask 512) (irq : Nat) : TableWith t t irq (maskAt t irq) := fun j => by
  split_ifs with h
  · rw [h]
  · rfl

/-- The trigger mode and the level decide a catch-up; neither depends on the masks it changes (R202, R284). -/
theorem Store.catchUp_pending_tableWith (st : Store) (irq : Nat) (m : CpuMask) :
    TableWith st.pending (st.catchUp irq m).pending irq
      (if st.triggerOf irq = .level ∧ maskAt st.level irq &&& m ≠ 0#8 then maskAt st.pending irq ||| m
        else maskAt st.pending irq) := by
  rw [Store.catchUp_pending]
  simp only [Store.isLevel_eq, decide_eq_true_iff]
  split_ifs with h
  · simpa using tableWith_setMask st.pending irq true m
  · exact tableWith_self _ _

/-- DEACTIVATE (R284). -/
theorem Store.deactivate_spec (st : Store) (irq : Nat) (m : CpuMask) : Deactivated st (st.deactivate irq m) irq m := by
  refine ⟨?_, ?_, ?_, ?_, ?_, ?_⟩
  · simpa [Store.deactivate] using tableWith_setMask st.active irq false m
  · simpa [Store.deactivate] using tableWith_setMask st.signaled irq false m
  · exact Store.catchUp_pending_tableWith ((st.setActive irq false m).setSignaled irq false m) irq m
  · simp [Store.deactivate]
  · simp [Store.deactivate]
  · simp [Store.deactivate]

/-! ## The writes of the one-bit-per-ID registers (R125, R202 to R222) -/

/-- `wordSelects`, in the terms of a scan over the bits of a word. -/
theorem wordSelects_eq (p : Params) (word : Nat) (data : Word) (irq : Nat) :
    wordSelects p word data irq = (decide (irq / 32 = word) && data.getLsbD (irq % 32) && p.impl irq) := rfl

/-- What a word's write leaves at one ID, when its step touches the selected IDs only: `obs` is the mask observed, `g`
what the step makes of it. -/
theorem forWordIds_at {α : Type} (p : Params) (word : Nat) (data : Word) (f : Nat → Store → Store) (irq : Nat)
    (obs : Store → α) (g : α → α) (hi : ∀ st, obs (f irq st) = g (obs st))
    (ho : ∀ st j, j ≠ irq → obs (f j st) = obs st) (st : Store) :
    obs (forWordIds p word data f st) = if wordSelects p word data irq then g (obs st) else obs st := by
  rw [wordSelects_eq]
  by_cases hw : irq / 32 = word
  · have hsplit : 32 * word + irq % 32 = irq := by omega
    have := forSetBits_at data obs (fun b st => if p.impl (32 * word + b) then f (32 * word + b) st else st)
      (fun a => if p.impl irq then g a else a) (irq % 32)
      (fun st => by
        show obs (if p.impl (32 * word + irq % 32) = true then f (32 * word + irq % 32) st else st) = _
        rw [hsplit]; split_ifs <;> simp [hi])
      (fun st k _ hk => by
        show obs (if p.impl (32 * word + k) = true then f (32 * word + k) st else st) = _
        split_ifs
        · exact ho _ _ (by omega)
        · rfl) st
    rw [forWordIds, this, decide_eq_true hw, Bool.true_and]
    cases data.getLsbD (irq % 32) <;> cases p.impl irq <;> rfl
  · rw [decide_eq_false hw, Bool.false_and, Bool.false_and, if_neg (by simp), forWordIds]
    refine forSetBits_keep data obs _ (fun st b hb _ => ?_) st
    show obs (if p.impl (32 * word + b) = true then f (32 * word + b) st else st) = _
    split_ifs
    · exact ho _ _ (by omega)
    · rfl

/-- A word's write keeps what each of its steps keeps. -/
theorem forWordIds_keep {α : Type} (p : Params) (word : Nat) (data : Word) (f : Nat → Store → Store) (obs : Store → α)
    (h : ∀ st j, obs (f j st) = obs st) (st : Store) : obs (forWordIds p word data f st) = obs st := by
  refine forSetBits_keep data obs _ (fun st b _ _ => ?_) st
  show obs (if p.impl (32 * word + b) = true then f (32 * word + b) st else st) = _
  split_ifs
  · exact h _ _
  · rfl

/-- A word's write keeps an invariant that each of its steps on an implemented ID keeps. -/
theorem forWordIds_inv (p : Params) (word : Nat) (data : Word) (f : Nat → Store → Store) (P : Store → Prop)
    (h : ∀ st j, p.impl j = true → P st → P (f j st)) (st : Store) (hst : P st) : P (forWordIds p word data f st) := by
  refine foldl_inv P _ _ (fun st b _ hP => ?_) st hst
  dsimp only
  split_ifs with h1 h2
  · exact h _ _ h2 hP
  · exact hP
  · exact hP

/-- The enable step of one ID (R202). -/
theorem enableId_eq (c : Cpu) (irq : Nat) (st : Store) :
    enableId c irq st = { st with
      enabled := setMask st.enabled irq true (maskFor irq c)
      pending := if st.triggerOf irq = .level ∧ maskAt st.level irq &&& maskFor irq c ≠ 0#8
        then setMask st.pending irq true (maskFor irq c) else st.pending } := by
  have : (st.setEnabled irq true (maskFor irq c)).isLevel irq (maskFor irq c) = true ↔
      maskAt st.level irq &&& maskFor irq c ≠ 0#8 := by rw [Store.isLevel_eq, decide_eq_true_iff]; rfl
  simp only [enableId, Store.enable, Store.catchUp, this]
  show (if st.triggerOf irq = .level ∧ maskAt st.level irq &&& maskFor irq c ≠ 0#8 then _ else _) = _
  split_ifs <;> rfl

/-- The disable step of one ID (R203). -/
theorem disableId_eq (c : Cpu) (irq : Nat) (st : Store) :
    disableId c irq st = { st with enabled := setMask st.enabled irq false (maskFor irq c) } := rfl

/-- The pending step of one ID (R210, R211). -/
theorem pendId_eq (v : Bool) (c : Cpu) (irq : Nat) (st : Store) :
    pendId v c irq st =
      { st with pending := if 16 ≤ irq then setMask st.pending irq v (maskFor irq c) else st.pending } := by
  simp only [pendId, nSgi]
  split_ifs <;> rfl

/-- The clear-active step of one ID (R222). -/
theorem deactId_eq (c : Cpu) (irq : Nat) (st : Store) :
    deactId c irq st = { st with active := setMask st.active irq false (maskFor irq c) } := rfl

/-! ## The trigger configuration (R241) -/

/-- The trigger modes an ICFGR write leaves. -/
theorem writeIcfgr_triggerOf (s : State) (word : Nat) (data : Word) (irq : Irq) :
    (writeIcfgr s word data).store.triggerOf irq.val =
      if irq.val / 16 = word ∧ 16 ≤ irq.val ∧ irq.val < s.params.nimpl then
        (if data.extractLsb' (2 * (irq.val % 16)) 2 = 2#2 then .edge else .level)
      else s.store.triggerOf irq.val := by
  have hlt := irq.isLt
  let f : Store → Nat → Store := fun st k =>
    if s.params.impl (16 * word + k) then st.setTrigger (16 * word + k) (triggerOfField (icfgrField data k)) else st
  have hf : (writeIcfgr s word data).store = (List.range 16).foldl f s.store := rfl
  rw [hf]
  by_cases hw : irq.val / 16 = word
  · have hsplit : 16 * word + irq.val % 16 = irq.val := by omega
    rw [foldl_range_at (fun st => st.triggerOf irq.val) f
      (fun t => if 16 ≤ irq.val ∧ irq.val < s.params.nimpl then triggerOfField (icfgrField data (irq.val % 16)) else t)
      (irq.val % 16) 16 (fun st => ?_) (fun st k hk hne => ?_)]
    · rw [if_pos (Nat.mod_lt _ (by decide))]
      simp only [hw, true_and]
      rfl
    · show (f st (irq.val % 16)).triggerOf irq.val = _
      simp only [f, hsplit, Params.impl, decide_eq_true_eq]
      split_ifs with h1 h2 h2
      · rw [Store.setTrigger_triggerOf, if_pos ⟨rfl, h2.1, hlt⟩]
      · rw [Store.setTrigger_triggerOf, if_neg (by omega)]
      · omega
      · rfl
    · show (f st k).triggerOf irq.val = _
      simp only [f]
      split_ifs
      · rw [Store.setTrigger_triggerOf, if_neg (by omega)]
      · rfl
  · rw [if_neg (by tauto)]
    refine foldl_keep (fun st => st.triggerOf irq.val) f _ (fun st k hk => ?_) _
    have := List.mem_range.mp hk
    show (f st k).triggerOf irq.val = _
    simp only [f]
    split_ifs
    · rw [Store.setTrigger_triggerOf, if_neg (by omega)]
    · rfl

/-- An ICFGR write changes the trigger table alone. -/
theorem writeIcfgr_eq (s : State) (word : Nat) (data : Word) :
    writeIcfgr s word data =
      { s with store := { s.store with trigger := (writeIcfgr s word data).store.trigger } } := by
  have h : ∀ st : Store, { st with trigger := s.store.trigger } = s.store →
      { st with trigger := s.store.trigger } = s.store ∧ st = { s.store with trigger := st.trigger } := by
    intro st hst
    refine ⟨hst, ?_⟩
    rw [← hst]
  have hk : { (writeIcfgr s word data).store with trigger := s.store.trigger } = s.store := by
    refine foldl_keep (fun st : Store => { st with trigger := s.store.trigger }) _ (List.range 16)
      (fun st k _ => ?_) s.store
    show { (if s.params.impl (16 * word + k) = true then _ else st : Store) with trigger := s.store.trigger } = _
    split_ifs
    · simp only [Store.setTrigger]
      split_ifs <;> rfl
    · rfl
  conv_lhs => rw [show writeIcfgr s word data = { s with store := (writeIcfgr s word data).store } from rfl]
  rw [← (h _ hk).2]

/-! ## Line events (R171, R172) -/

/-- The store after a level-triggered line event that changes the level (R171). -/
theorem lineLevelStore_eq (irq : Nat) (m : CpuMask) (v : Bool) (st : Store) :
    lineLevelStore irq m v st = { st with
      level := setMask st.level irq v m
      pending := if v = false then setMask st.pending irq false m
        else if maskAt st.signaled irq &&& m = 0#8 then setMask st.pending irq true m else st.pending } := by
  cases v
  · rfl
  · simp only [lineLevelStore, Store.isSignaled_eq, decide_eq_true_eq, if_true]
    by_cases h : maskAt st.signaled irq &&& m = 0#8
    · simp [h, Store.setLevel, Store.setPending]
    · simp [h, Store.setLevel]

/-- The store after an edge-triggered line event that changes the level (R172). -/
theorem lineEdgeStore_eq (gated : Bool) (irq : Nat) (m : CpuMask) (v : Bool) (st : Store) :
    lineEdgeStore gated irq m v st = { st with
      level := setMask st.level irq v m
      pending := if v = true ∧ ¬(gated = true ∧ maskAt st.signaled irq &&& m ≠ 0#8)
        then setMask st.pending irq true m else st.pending } := by
  simp only [lineEdgeStore, Store.isSignaled_eq]
  by_cases h : maskAt st.signaled irq &&& m = 0#8 <;> cases v <;> cases gated <;>
    simp [h, Store.setLevel, Store.setPending]

end Sys2Proof.Machine
end

