-- ==== Sys2Proof/Laws/Arbiter.lean ====
section
/-! SUPPORT. What the arbitration pass can do: the scan that picks the best candidate, the candidates, and the parts of
the state the pass reads. -/

namespace Sys2Proof.Machine

/-! ## The scan (R403, R408) -/

theorem better_iff (p q : Prio) : better p q = true ↔ p.toNat < q.toNat := by
  rw [better, BitVec.ult_iff_lt, BitVec.lt_def]

theorem firstBest_eq_none_iff {α : Type} (key : α → Prio) (l : List α) : firstBest key l = none ↔ l = [] := by
  cases l with
  | nil => simp [firstBest]
  | cons a as =>
    simp only [firstBest, reduceCtorEq, iff_false]
    split
    · simp
    · split_ifs <;> simp

/-- What the scan finds is in the list, is no worse than anything after it, and strictly better than anything before
it. -/
theorem firstBest_spec {α : Type} (key : α → Prio) (l : List α) (a : α) (h : firstBest key l = some a) :
    ∃ pre post, l = pre ++ a :: post ∧ (∀ b ∈ pre, (key a).toNat < (key b).toNat) ∧
      ∀ b ∈ post, (key a).toNat ≤ (key b).toNat := by
  induction l generalizing a with
  | nil => simp [firstBest] at h
  | cons x xs ih =>
    simp only [firstBest] at h
    split at h
    · rename_i hn
      rw [firstBest_eq_none_iff] at hn
      obtain rfl := Option.some.inj h
      subst hn
      exact ⟨[], [], rfl, by simp, by simp⟩
    · rename_i b hb
      obtain ⟨pre, post, rfl, hpre, hpost⟩ := ih b hb
      split_ifs at h with hbet
      · obtain rfl := Option.some.inj h
        refine ⟨x :: pre, post, rfl, fun c hc => ?_, hpost⟩
        rcases List.mem_cons.mp hc with rfl | hc
        · exact (better_iff _ _).mp hbet
        · exact hpre c hc
      · obtain rfl := Option.some.inj h
        have hle : (key x).toNat ≤ (key b).toNat := by
          rw [better_iff] at hbet; omega
        refine ⟨[], pre ++ b :: post, rfl, by simp, fun c hc => ?_⟩
        rcases List.mem_append.mp hc with hc | hc
        · have := hpre c hc; omega
        · rcases List.mem_cons.mp hc with rfl | hc
          · exact hle
          · have := hpost c hc; omega

/-- In a list that rises strictly, the scan finds the element with the least (key, position) (R403, R408). -/
theorem firstBest_eq_some_iff {n : Nat} (key : Fin n → Prio) (l : List (Fin n)) (hl : l.Pairwise (· < ·)) (a : Fin n) :
    firstBest key l = some a ↔
      a ∈ l ∧ ∀ b ∈ l, (key a).toNat < (key b).toNat ∨ (key a = key b ∧ a.val ≤ b.val) := by
  have fwd : ∀ a, firstBest key l = some a →
      a ∈ l ∧ ∀ b ∈ l, (key a).toNat < (key b).toNat ∨ (key a = key b ∧ a.val ≤ b.val) := by
    intro a h
    obtain ⟨pre, post, rfl, hpre, hpost⟩ := firstBest_spec key l a h
    refine ⟨by simp, fun b hb => ?_⟩
    rcases List.mem_append.mp hb with hb | hb
    · exact .inl (hpre b hb)
    · rcases List.mem_cons.mp hb with rfl | hb
      · exact .inr ⟨rfl, le_refl _⟩
      · have hab : a < b := by
          have := (List.pairwise_append.mp hl).2.1
          exact List.rel_of_pairwise_cons this hb
        have := hpost b hb
        rcases Nat.lt_or_ge (key a).toNat (key b).toNat with h | h
        · exact .inl h
        · exact .inr ⟨BitVec.eq_of_toNat_eq (by omega), Nat.le_of_lt hab⟩
  refine ⟨fwd a, fun ⟨ha, hbest⟩ => ?_⟩
  cases hf : firstBest key l with
  | none => rw [firstBest_eq_none_iff] at hf; subst hf; simp at ha
  | some b =>
    obtain ⟨hb, hb2⟩ := fwd b hf
    have h1 := hbest b hb
    have h2 := hb2 a ha
    have : a = b := by
      rcases h1 with h1 | ⟨h1, h1'⟩ <;> rcases h2 with h2 | ⟨h2, h2'⟩
      · omega
      · rw [h2] at h1; omega
      · rw [h1] at h2; omega
      · exact Fin.ext (by omega)
    rw [this]

/-! ## The candidates (R10, R401, R407) -/

theorem mem_implementedIds (p : Params) (irq : Irq) : irq ∈ implementedIds p ↔ irq.val < p.nimpl := by
  simp only [implementedIds, List.mem_map, List.mem_finRange, true_and]
  constructor
  · rintro ⟨a, rfl⟩; exact a.isLt
  · intro h; exact ⟨⟨irq.val, h⟩, rfl⟩

theorem implementedIds_rising (p : Params) : (implementedIds p).Pairwise (· < ·) := by
  rw [implementedIds, List.pairwise_map]
  exact (List.pairwise_lt_finRange _).imp fun h => h

/-- The scan's test is the candidacy of R401. -/
theorem mem_candidates (s : State) (c : Cpu) (irq : Irq) :
    irq ∈ (implementedIds s.params).filter (candPhys s c) ↔ Candidate s c irq := by
  simp only [List.mem_filter, mem_implementedIds, candPhys, Candidate, Store.isEnabled_eq, Store.isPending_eq,
    Store.isActive_eq, Bool.and_eq_true, Bool.not_eq_true', decide_eq_true_eq, decide_eq_false_iff_not, not_not,
    Bool.or_eq_true, nPriv, and_assoc, ne_eq]
  have : (irq.val < 32 ∨ (s.targets irq.val).getLsbD c.val = true) ↔
      (32 ≤ irq.val → (s.targets irq.val).getLsbD c.val = true) := by
    constructor
    · rintro (h | h) h'
      · omega
      · exact h
    · intro h
      by_cases h' : irq.val < 32
      · exact .inl h'
      · exact .inr (h (by omega))
  rw [this]

/-- The scan's test is the candidacy of R407. -/
theorem mem_virtualCandidates (v : VirtIf) (i : LrIx) :
    i ∈ (List.finRange 4).filter (candVirt v) ↔ VirtualCandidate v i := by
  simp [candVirt, VirtualCandidate]

/-- The physical selection (R403). -/
theorem physBest_eq_some_iff (s : State) (c : Cpu) (irq : Irq) :
    physBest s c = some irq ↔ Candidate s c irq ∧ ∀ j : Irq, Candidate s c j →
      (s.prio irq.val c).toNat < (s.prio j.val c).toNat ∨ (s.prio irq.val c = s.prio j.val c ∧ irq.val ≤ j.val) := by
  rw [physBest, firstBest_eq_some_iff _ _ ((implementedIds_rising _).filter _)]
  simp only [mem_candidates]

/-- The virtual selection (R408). -/
theorem virtBest_eq_some_iff (v : VirtIf) (i : LrIx) :
    virtBest v = some i ↔ VirtualCandidate v i ∧ ∀ j : LrIx, VirtualCandidate v j →
      (v.listReg i).prio.toNat < (v.listReg j).prio.toNat ∨ ((v.listReg i).prio = (v.listReg j).prio ∧ i.val ≤ j.val) := by
  rw [virtBest, firstBest_eq_some_iff _ _ ((List.pairwise_lt_finRange 4).filter _)]
  simp only [mem_virtualCandidates]

/-- The selection that reaches the CPU interface is an implemented ID (R401, R404). -/
theorem hppirOf_lt (s : State) (c : Cpu) (irq : Irq) (h : hppirOf s c = some irq) : irq.val < s.params.nimpl := by
  rw [hppirOf] at h
  split_ifs at h
  rw [Option.filter_eq_some_iff, physBest_eq_some_iff] at h
  exact h.1.1.1

/-! ## What the pass reads (R409) -/

/-- The state the pass reads: everything but its own results and the model's own fields. -/
structure SameInputs (s t : State) : Prop where
  params : t.params = s.params
  store : t.store = s.store
  dctlr : t.dctlr = s.dctlr
  prioPriv : t.prioPriv = s.prioPriv
  prioSpi : t.prioSpi = s.prioSpi
  itargets : t.itargets = s.itargets
  cpu : t.cpu = s.cpu
  virt : t.virt = s.virt

/-- The pass gives equal results on states with equal inputs. -/
theorem arbFor_congr {s t : State} (h : SameInputs s t) (c : Cpu) : arbFor t c = arbFor s c := by
  obtain ⟨h1, h2, h3, h4, h5, h6, h7, h8⟩ := h
  have hp : ∀ irq c, t.prio irq c = s.prio irq c := fun irq c => by simp only [State.prio, h4, h5]
  have hc : ∀ c, t.cpuIf c = s.cpuIf c := fun c => by simp only [State.cpuIf, h7]
  have hv : ∀ c, t.virtIf c = s.virtIf c := fun c => by simp only [State.virtIf, h8]
  have hcand : candPhys t c = candPhys s c := by
    funext irq
    simp only [candPhys, State.targets, h2, h6]
  have hen : physEnabled t c = physEnabled s c := by simp only [physEnabled, h3, hc]
  have hbest : physBest t c = physBest s c := by simp only [physBest, hcand, hp, h1]
  have hh : hppirOf t c = hppirOf s c := by simp only [hppirOf, hbest, hp, hc]; rw [hen]
  simp only [arbFor, hh, irqOutOf, hp, hc, hv]

theorem arbFor_update (s : State) (c : Cpu) : arbFor (update s) c = arbFor s c :=
  arbFor_congr ⟨rfl, rfl, rfl, rfl, rfl, rfl, rfl, rfl⟩ c

theorem arbFor_setOut (s : State) (resp : Option Response) (diag : List Diag) (c : Cpu) :
    arbFor (s.setOut resp diag) c = arbFor s c := arbFor_congr ⟨rfl, rfl, rfl, rfl, rfl, rfl, rfl, rfl⟩ c

theorem perCpu_congr {α : Type} {f g : Cpu → α} (h : ∀ c, f c = g c) : perCpu f = perCpu g := by rw [funext h]

/-- An UPDATE is done when every connected CPU's results are those of the pass (R409). -/
theorem arbitrated_iff (s : State) :
    s.Arbitrated ↔ ∀ c : Cpu, c.val < s.params.numCpu → s.arbOut c = arbFor s c := by
  constructor
  · intro h c hc
    have := update_arbOut s c
    rw [if_pos hc, show update s = s from h] at this
    exact this
  · intro h
    have : (update s).arb = s.arb := by
      refine Vector.ext fun i hi => ?_
      have := update_arbOut s ⟨i, hi⟩
      simp only [State.arbOut] at this
      rw [this]
      split_ifs with hc
      · exact (h ⟨i, hi⟩ hc).symm
      · rfl
    show { s with arb := (update s).arb } = s
    rw [this]

end Sys2Proof.Machine
end

