-- ==== Sys2Proof/Laws/Decode.lean ====
section
/-! SUPPORT. The access key, the acceptance of a row, and the selection of the row of an access. -/

namespace Sys2Proof

/-! ## The access key (R110) -/

theorem mkKey_toNat (w : Iface) (d : Dir) (off : Nat) (h : off < 8192) :
    (mkKey w d off).toNat = w.code * 16384 + d.code * 8192 + off := by
  have hw : w.code ≤ 3 := by cases w <;> decide
  have hd : d.code ≤ 1 := by cases d <;> decide
  rw [mkKey, BitVec.toNat_ofNat, Nat.mod_eq_of_lt (by omega)]

@[simp] theorem keyOff_mkKey (w : Iface) (d : Dir) (off : Nat) (h : off < 8192) : keyOff (mkKey w d off) = off := by
  rw [keyOff, mkKey_toNat w d off h]; omega

@[simp] theorem keyDir_mkKey (w : Iface) (d : Dir) (off : Nat) (h : off < 8192) : keyDir (mkKey w d off) = d := by
  rw [keyDir, mkKey_toNat w d off h]
  cases d
  · rw [if_neg]; simp only [Dir.code]; omega
  · rw [if_pos]; simp only [Dir.code]; omega

@[simp] theorem keyIface_mkKey (w : Iface) (d : Dir) (off : Nat) (h : off < 8192) : keyIface (mkKey w d off) = w := by
  have hd : d.code ≤ 1 := by cases d <;> decide
  have hc : (w.code * 16384 + d.code * 8192 + off) / 16384 = w.code := by omega
  rw [keyIface, mkKey_toNat w d off h, hc]
  cases w <;> rfl

theorem keyOff_lt (key : BitVec 16) : keyOff key < 8192 := Nat.mod_lt _ (by decide)

/-- A key is its interface, its direction and its offset (R110). -/
theorem mkKey_fields (key : BitVec 16) : mkKey (keyIface key) (keyDir key) (keyOff key) = key := by
  have hk := key.isLt
  have hi : (keyIface key).code = key.toNat / 16384 := by
    rw [keyIface]
    have : key.toNat / 16384 = 0 ∨ key.toNat / 16384 = 1 ∨ key.toNat / 16384 = 2 ∨ key.toNat / 16384 = 3 := by omega
    rcases this with h | h | h | h <;> rw [h] <;> rfl
  have hd : (keyDir key).code = key.toNat / 8192 % 2 := by
    rw [keyDir]
    split_ifs with h
    · rw [h]; rfl
    · show 0 = _; omega
  apply BitVec.eq_of_toNat_eq
  rw [mkKey_toNat _ _ _ (keyOff_lt key), hi, hd, keyOff]
  omega

/-- The bits of a key above its offset (R110). -/
theorem key_window (key : BitVec 16) : key &&& 0xe000#16 = mkKey (keyIface key) (keyDir key) 0 := by
  conv_lhs => rw [← mkKey_fields key]
  generalize keyIface key = w
  generalize keyDir key = d
  have ho := keyOff_lt key
  generalize keyOff key = off at ho
  apply BitVec.eq_of_toNat_eq
  rw [BitVec.toNat_and, mkKey_toNat _ _ _ ho, mkKey_toNat _ _ _ (by decide),
    show (0xe000#16).toNat = 7 * 2 ^ 13 from rfl]
  have hx : (w.code * 16384 + d.code * 8192 + off) = 2 ^ 13 * (2 * w.code + d.code) + off := by omega
  have hw : 2 * w.code + d.code < 8 := by cases w <;> cases d <;> decide
  rw [hx]
  have : ∀ a < 8, ((2 ^ 13 * a + off) &&& (7 * 2 ^ 13)) = 2 ^ 13 * a := by
    intro a ha
    apply Nat.eq_of_testBit_eq
    intro i
    have h7 : (7 : Nat) = 2 ^ 3 - 1 := rfl
    rw [Nat.testBit_and, Nat.testBit_two_pow_mul_add a ho, Nat.mul_comm 7, Nat.testBit_two_pow_mul,
      Nat.testBit_two_pow_mul, h7, Nat.testBit_two_pow_sub_one]
    by_cases h : i < 13
    · rw [if_pos h, decide_eq_false (p := i ≥ 13) (by omega)]
      simp
    · rw [if_neg h, decide_eq_true (p := i ≥ 13) (by omega)]
      by_cases h3 : i - 13 < 3
      · simp [h3]
      · have : a.testBit (i - 13) = false :=
          Nat.testBit_lt_two_pow (Nat.lt_of_lt_of_le ha (Nat.pow_le_pow_right (n := 2) (by decide) (show 3 ≤ i - 13 by omega)))
        simp [this]
  rw [this _ hw]
  omega

/-- Clipping the data of an access twice is clipping it once (R81). -/
theorem clip_clip (n : Width) (data : Word) : clip n (clip n data) = clip n data := by
  cases n <;> simp [clip, BitVec.and_assoc]

theorem laneData_laneData (key : BitVec 16) (n : Width) (data : Word) :
    laneData key n (laneData key n data) = laneData key n data := by
  rw [laneData, laneData]
  cases keyDir key
  · rfl
  · exact clip_clip n data

/-- The data of a well-formed write is carried whole (R81). -/
theorem clip_of_dataOk {n : Width} {data : Word} (h : dataOk n data = true) : clip n data = data := by
  simpa [dataOk] using h

theorem canonical_canonical (r : Request) : r.canonical.canonical = r.canonical := by
  cases r with
  | bus key n init data => simp only [Request.canonical, laneData_laneData]
  | line port value => rfl
  | reset => rfl

/-- A read that is encoded carries no data. -/
theorem rd_canonical (w : Iface) (off : Nat) (n : Width) (init : Nat) (h : off < 8192) :
    (rd w off n init).canonical = rd w off n init := by
  simp only [rd, Request.canonical, laneData, keyDir_mkKey w _ off h]

/-- A write that is encoded carries the data of its width. -/
theorem wr_canonical (w : Iface) (off : Nat) (n : Width) (init : Nat) (data : Word) (h : off < 8192)
    (hd : clip n data = data) : (wr w off n init data).canonical = wr w off n init data := by
  simp only [wr, Request.canonical, laneData, keyDir_mkKey w _ off h, hd]

/-! ## Rows (R112) -/

theorem accepts_iff (r : Row) (key : BitVec 16) (n : Width) :
    r.accepts key n = true ↔
      key &&& r.mask = r.pattern ∧ r.lo ≤ keyOff key ∧ keyOff key ≤ r.hi ∧ n ∈ r.widths ∧ keyOff key % n.bytes = 0 := by
  simp only [Row.accepts, Bool.and_eq_true, beq_iff_eq, decide_eq_true_eq, List.contains_iff_mem, and_assoc]

/-- Every row fixes at least the interface and the direction. -/
theorem rows_masks : ∀ r ∈ rows, r.mask &&& 0xe000#16 = 0xe000#16 ∧ r.hi < 8192 := by
  have : (rows.all fun r => decide (r.mask &&& 0xe000#16 = 0xe000#16 ∧ r.hi < 8192)) = true := by decide +kernel
  simpa using this

/-- Two rows of one window and direction have offsets apart (R112). -/
theorem rows_apart :
    rows.Pairwise (fun a b => a.pattern &&& 0xe000#16 ≠ b.pattern &&& 0xe000#16 ∨ a.hi < b.lo ∨ b.hi < a.lo) := by
  have h : ((rows.map fun r => (r.pattern &&& 0xe000#16, r.lo, r.hi)).Pairwise
      (fun a b => a.1 ≠ b.1 ∨ a.2.2 < b.2.1 ∨ b.2.2 < a.2.1)) := by decide +kernel
  rwa [List.pairwise_map] at h

/-- A row that takes an access names its window and direction. -/
theorem window_of_accepts {r : Row} (hr : r ∈ rows) {key : BitVec 16} {n : Width} (h : r.accepts key n = true) :
    key &&& 0xe000#16 = r.pattern &&& 0xe000#16 := by
  rw [accepts_iff] at h
  rw [← h.1, BitVec.and_assoc, (rows_masks r hr).1]

/-- The row that takes an access is the one that is selected (R112). -/
theorem selectRow_of_accepts {r : Row} (i : Nat) (hi : rows[i]? = some r) {key : BitVec 16} {n : Width}
    (h : r.accepts key n = true) : selectRow key n = some r := by
  rw [selectRow, List.find?_eq_some_iff_getElem]
  obtain ⟨hlt, hri⟩ := List.getElem?_eq_some_iff.mp hi
  refine ⟨h, i, hlt, hri, fun j hj => ?_⟩
  have hap := (List.pairwise_iff_getElem.mp rows_apart) j i (by omega) hlt hj
  rw [hri] at hap
  have hr : r ∈ rows := List.mem_of_getElem? hi
  simp only [Bool.not_eq_eq_eq_not, Bool.not_true]
  by_contra hc
  rw [Bool.not_eq_false] at hc
  have h1 := window_of_accepts hr h
  have h2 := window_of_accepts (List.getElem_mem _) hc
  rw [accepts_iff] at h hc
  rcases hap with hap | hap | hap
  · exact hap (by rw [← h2, ← h1])
  · omega
  · omega

/-- The row of a register that stands alone takes its own key. -/
theorem oneWord_accepts (w : Iface) (d : Dir) (off : Nat) (build : Nat → Word → Instr) (h : off < 8192)
    (h4 : off % 4 = 0) : (oneWord (mkKey w d off) off build).accepts (mkKey w d off) .w4 = true := by
  rw [accepts_iff]
  refine ⟨?_, ?_, ?_, ?_, ?_⟩
  · exact BitVec.and_allOnes
  · rw [keyOff_mkKey w d off h]; exact Nat.le_refl _
  · rw [keyOff_mkKey w d off h]; exact Nat.le_refl _
  · exact List.mem_singleton.mpr rfl
  · rw [keyOff_mkKey w d off h]; exact h4

/-- The row of a word array takes the keys of its words. -/
theorem wordArray_accepts (w : Iface) (d : Dir) (base lo hi off : Nat) (build : Nat → Nat → Word → Instr)
    (h : off < 8192) (h4 : off % 4 = 0) (hlo : lo ≤ off) (hhi : off ≤ hi) :
    (wordArray (mkKey w d 0) base lo hi build).accepts (mkKey w d off) .w4 = true := by
  rw [accepts_iff, keyOff_mkKey w d off h]
  refine ⟨?_, hlo, hhi, List.mem_singleton.mpr rfl, h4⟩
  show mkKey w d off &&& 0xe000#16 = mkKey w d 0
  rw [key_window, keyIface_mkKey w d off h, keyDir_mkKey w d off h]

/-- The row of a byte array takes the keys of its bytes at every aligned width. -/
theorem byteArray_accepts (w : Iface) (d : Dir) (base lo hi off : Nat) (n : Width)
    (build : Nat → Width → Nat → Word → Instr) (h : off < 8192) (ha : off % n.bytes = 0) (hlo : lo ≤ off)
    (hhi : off ≤ hi) : (byteArray (mkKey w d 0) base lo hi build).accepts (mkKey w d off) n = true := by
  rw [accepts_iff, keyOff_mkKey w d off h]
  refine ⟨?_, hlo, hhi, by cases n <;> simp [byteArray], ha⟩
  show mkKey w d off &&& 0xe000#16 = mkKey w d 0
  rw [key_window, keyIface_mkKey w d off h, keyDir_mkKey w d off h]

/-- What an access decodes to, from the row that takes it (R112). -/
theorem decodeBus_of_accepts {r : Row} (i : Nat) (hi : rows[i]? = some r) {key : BitVec 16} {n : Width}
    (h : r.accepts key n = true) (init : Nat) (data : Word) :
    decodeBus key n init data = r.build (keyOff key) n init (laneData key n data) := by
  rw [decodeBus, selectRow_of_accepts i hi h]

end Sys2Proof
end

