-- ==== Sys2Proof/Laws/Ops.lean ====
section
/-! SUPPORT. What each shared operation of Machine/Ops.lean can do: the acknowledge, the end of interrupt, their virtual
twins, and the software-generated interrupts. -/

namespace Sys2Proof.Machine

/-! ## Accesses -/

theorem current_of_lt (s : State) (init : Nat) (h : init < s.params.numCpu) : (s.current init).val = init := by
  simp [State.current, h]

theorem current_of_le (s : State) (init : Nat) (h : s.params.numCpu ≤ init) : s.current init = 0 := by
  simp [State.current, Nat.not_lt.mpr h]

/-- A connected CPU is the current CPU of its own accesses. -/
theorem current_connected (s : State) (c : Cpu) (h : c.val < s.params.numCpu) : s.current c.val = c :=
  Fin.ext (current_of_lt s c.val h)

@[simp] theorem current_zero (s : State) : s.current 0 = 0 := by
  have := s.params.numCpu_pos
  exact Fin.ext (current_of_lt s 0 this)

/-! ## The acknowledge (R275) -/

/-- The sources an acknowledge leaves, when `j` is the lowest (R275). -/
theorem sourcesLeft_of_lowest (s : State) (c : Cpu) (irq j : Nat) (h : LowestBit (s.sgiSources c irq) j) :
    sourcesLeft s c irq = s.sgiSources c irq &&& ~~~(1#8 <<< j) ∧ (irq < 16 → sgiSource s c irq = j) ∧
      s.sgiSources c irq ≠ 0#8 := by
  have hne : s.sgiSources c irq ≠ 0#8 := by
    intro hz
    have := h.1
    rw [hz, BitVec.getLsbD_zero] at this
    cases this
  have hl := lowestSet_eq _ j h.1 h.2
  refine ⟨?_, fun hi => ?_, hne⟩
  · rw [sourcesLeft, if_neg hne, hl, bit]
  · rw [sgiSource, if_pos hi, if_neg hne, hl]

theorem sourcesLeft_of_none (s : State) (c : Cpu) (irq : Nat) (h : s.sgiSources c irq = 0#8) :
    sourcesLeft s c irq = 0#8 ∧ sgiSource s c irq = 0 := by
  refine ⟨by rw [sourcesLeft, if_pos h], ?_⟩
  rw [sgiSource]
  split_ifs <;> rfl

/-- The source in an interrupt-ID word is a CPU number (R129). -/
theorem sgiSource_lt (s : State) (c : Cpu) (irq : Nat) : sgiSource s c irq < 8 := by
  rw [sgiSource]
  split_ifs with h1 h2
  · decide
  · exact BitVec.lt_of_getLsbD (lowestSet_bit _ h2).1
  · decide

/-- Taking an interrupt, as one record: pending is consumed in `consumePending`, and the rest is here (R275). -/
theorem takeInterrupt_eq (s : State) (c : Cpu) (irq : Irq) :
    takeInterrupt s c irq = { s with
      store := { s.store with
        pending := (consumePending s c irq.val).store.pending
        active := setMask s.store.active irq.val true (maskFor irq.val c)
        signaled := setMask s.store.signaled irq.val true (maskFor irq.val c) }
      sgiSrc := (consumePending s c irq.val).sgiSrc
      cpu := s.cpu.set c.val
        { s.cpuIf c with stk := irq :: (s.cpuIf c).stk, rpr := s.prio irq.val c } } := by
  simp only [takeInterrupt, consumePending]
  split_ifs <;> rfl

/-- The pending state an acknowledge of a PPI or SPI leaves (R275). -/
theorem consumePending_of_ge (s : State) (c : Cpu) (irq : Nat) (h : 16 ≤ irq) :
    consumePending s c irq = { s with store := { s.store with
      pending := setMask s.store.pending irq false (maskFor irq c) } } := by
  rw [consumePending, if_neg (Nat.not_lt.mpr h)]; rfl

/-- The pending state an acknowledge of an SGI leaves (R275). -/
theorem consumePending_of_lt (s : State) (c : Cpu) (irq : Nat) (h : irq < 16) :
    consumePending s c irq = { s with
      sgiSrc := bankSet s.sgiSrc c irq (sourcesLeft s c irq)
      store := { s.store with
        pending := setMask s.store.pending irq (sourcesLeft s c irq != 0#8) (bit c.val) } } := by
  rw [consumePending, if_pos h]; rfl

/-- The read takes an interrupt exactly when one is selected and can preempt (R274, R275). -/
theorem viable_eq_some_iff (s : State) (c : Cpu) (irq : Irq) :
    viable s c = some irq ↔
      (s.arbOut c).hppir = some irq ∧ (s.prio irq.val c).toNat < (s.cpuIf c).rpr.toNat := by
  rw [viable, Option.filter_eq_some_iff, better_iff]

theorem viable_eq_none_iff (s : State) (c : Cpu) :
    viable s c = none ↔ ∀ irq : Irq, (s.arbOut c).hppir = some irq →
      ¬(s.prio irq.val c).toNat < (s.cpuIf c).rpr.toNat := by
  rw [viable, Option.filter_eq_none_iff]
  simp only [better_iff]

theorem viableVirtual_eq_some_iff (s : State) (c : Cpu) (i : LrIx) :
    viableVirtual s c = some i ↔ (s.arbOut c).vhppir = some i ∧
      ((s.virtIf c).listReg i).prio.toNat < (s.virtIf c).rpr.toNat := by
  rw [viableVirtual, Option.filter_eq_some_iff, better_iff]

theorem viableVirtual_eq_none_iff (s : State) (c : Cpu) :
    viableVirtual s c = none ↔ ∀ i : LrIx, (s.arbOut c).vhppir = some i →
      ¬((s.virtIf c).listReg i).prio.toNat < (s.virtIf c).rpr.toNat := by
  rw [viableVirtual, Option.filter_eq_none_iff]
  simp only [better_iff]

/-! ## The end of interrupt (R280 to R284) -/

/-- Everything the end of interrupt can do. -/
theorem endInterrupt_cases (s : State) (c : Cpu) (id : Nat) :
    (512 ≤ id ∧ endInterrupt s c id = .error .eoiOutOfRange) ∨
    ((s.cpuIf c).stk = [] ∧ endInterrupt s c id = .error .eoiNoActive) ∨
    (∃ (irq : Irq) (rest : List Irq), irq.val = id ∧ (s.cpuIf c).stk = irq :: rest ∧
      endInterrupt s c id = .ok (endInOrder s c irq rest)) ∨
    (∃ (irq top : Irq) (rest : List Irq), irq.val = id ∧ (s.cpuIf c).stk = top :: rest ∧ irq ≠ top ∧ irq ∈ rest ∧
      endInterrupt s c id = .ok (endOutOfOrder s c irq)) ∨
    ((∀ x : Irq, x ∈ (s.cpuIf c).stk → x.val ≠ id) ∧ endInterrupt s c id = .error .eoiNotOnStack) := by
  rw [endInterrupt]
  by_cases h : id < 512
  · rw [dif_pos h]
    cases hs : (s.cpuIf c).stk with
    | nil => exact .inr (.inl ⟨rfl, rfl⟩)
    | cons top rest =>
      dsimp only
      split_ifs with h1 h2
      · exact .inr (.inr (.inl ⟨⟨id, h⟩, rest, rfl, by rw [h1], rfl⟩))
      · exact .inr (.inr (.inr (.inl ⟨⟨id, h⟩, top, rest, rfl, rfl, h1, h2, rfl⟩)))
      · refine .inr (.inr (.inr (.inr ⟨fun x hx he => ?_, rfl⟩)))
        rcases List.mem_cons.mp hx with rfl | hx
        · exact h1 (Fin.ext he.symm)
        · exact h2 (by rw [show (⟨id, h⟩ : Irq) = x from Fin.ext he.symm]; exact hx)
  · rw [dif_neg h]
    exact .inl ⟨by omega, rfl⟩

/-- The in-order end, as one record (R282). -/
theorem endInOrder_eq (s : State) (c : Cpu) (irq : Irq) (rest : List Irq) :
    endInOrder s c irq rest = { s with
      store := s.store.deactivate irq.val (maskFor irq.val c)
      cpu := s.cpu.set c.val { s.cpuIf c with stk := rest, rpr := restoredPrio s c rest } } := rfl

/-- The out-of-order end, as one record (R283). -/
theorem endOutOfOrder_eq (s : State) (c : Cpu) (irq : Irq) :
    endOutOfOrder s c irq = { s with
      store := s.store.deactivate irq.val (maskFor irq.val c)
      cpu := s.cpu.set c.val { s.cpuIf c with stk := (s.cpuIf c).stk.erase irq } } := rfl

/-! ## Virtual interrupts (R331, R366, R370 to R373) -/

/-- `get_lr` finds the lowest index that matches (R331). -/
theorem getLr_eq_some_iff (v : VirtIf) (vid : BitVec 10) (i : LrIx) :
    getLr v vid = some i ↔
      ((v.listReg i).virtualId = vid ∧ ((v.listReg i).pending = true ∨ (v.listReg i).active = true) ∧
        ∀ j : LrIx, j.val < i.val →
          ¬((v.listReg j).virtualId = vid ∧ ((v.listReg j).pending = true ∨ (v.listReg j).active = true))) := by
  have h4 : List.finRange 4 = [0, 1, 2, 3] := by decide
  simp only [getLr, h4, List.find?_cons, List.find?_nil]
  generalize hP : (fun j : LrIx => ((v.listReg j).virtualId == vid && ((v.listReg j).pending || (v.listReg j).active))) = P
  have hp : ∀ j : LrIx, ((v.listReg j).virtualId = vid ∧ ((v.listReg j).pending = true ∨ (v.listReg j).active = true)) ↔
      P j = true := by intro j; rw [← hP]; simp
  have hp' : ∀ j : LrIx, ((v.listReg j).virtualId == vid && ((v.listReg j).pending || (v.listReg j).active)) = P j := by
    intro j; rw [← hP]
  rw [← and_assoc, hp]
  simp only [hp, hp']
  clear hP hp hp'
  revert i
  have e : ∀ b0 b1 b2 b3 : Bool, ∀ i : LrIx,
      (match b0 with
        | true => some (0 : LrIx)
        | false => (match b1 with
          | true => some 1
          | false => (match b2 with
            | true => some 2
            | false => (match b3 with
              | true => some 3
              | false => none)))) = some i ↔
      (#v[b0, b1, b2, b3][i] = true ∧ ∀ j : LrIx, j.val < i.val → ¬#v[b0, b1, b2, b3][j] = true) := by decide
  intro i
  have := e (P 0) (P 1) (P 2) (P 3) i
  have hv : ∀ j : LrIx, #v[P 0, P 1, P 2, P 3][j] = P j := by intro j; fin_cases j <;> rfl
  simp only [hv] at this
  exact this

/-- The lookup sees the list registers alone. -/
theorem getLr_congr {v v' : VirtIf} (h : v'.lr = v.lr) (vid : BitVec 10) : getLr v' vid = getLr v vid := by
  simp only [getLr, VirtIf.listReg, h]

/-- Everything the list-register part of a virtual end of interrupt can do (R371 to R373). -/
theorem virtualDeactivate_cases (s : State) (c : Cpu) (vid : BitVec 10) :
    (getLr (s.virtIf c) vid = none ∧ virtualDeactivate s c vid = (s, [.lrLookupMiss])) ∨
    (∃ (i : LrIx) (e : ListReg), getLr (s.virtIf c) vid = some i ∧ e = (s.virtIf c).listReg i ∧
      ((e.hw = true ∧ 16 < e.physicalId.toNat ∧ e.physicalId.toNat < 512 ∧
        virtualDeactivate s c vid =
          ((s.setVirtIf c ((s.virtIf c).setListReg i { e with active := false })).onStore
            (fun st => st.deactivate e.physicalId.toNat (maskFor e.physicalId.toNat c)), [])) ∨
      (e.hw = true ∧ ¬(16 < e.physicalId.toNat ∧ e.physicalId.toNat < 512) ∧
        virtualDeactivate s c vid =
          (s.setVirtIf c ((s.virtIf c).setListReg i { e with active := false }), [.badLrPhysicalId])) ∨
      (e.hw = false ∧ virtualDeactivate s c vid =
          (s.setVirtIf c ((s.virtIf c).setListReg i { e with active := false }), [])))) := by
  rw [virtualDeactivate]
  cases hg : getLr (s.virtIf c) vid with
  | none => exact .inl ⟨rfl, by simp only [getLrDiag, hg]⟩
  | some i =>
    refine .inr ⟨i, _, rfl, rfl, ?_⟩
    dsimp only
    by_cases hw : ((s.virtIf c).listReg i).hw = true
    · rw [if_pos hw]
      by_cases hp : physicalIdOk ((s.virtIf c).listReg i).physicalId.toNat = true
      · rw [if_pos hp]
        simp only [physicalIdOk, nSgi, nIrq, Bool.and_eq_true, decide_eq_true_eq] at hp
        exact .inl ⟨hw, hp.1, hp.2, rfl⟩
      · rw [if_neg hp]
        simp only [physicalIdOk, nSgi, nIrq, Bool.and_eq_true, decide_eq_true_eq] at hp
        exact .inr (.inl ⟨hw, hp, rfl⟩)
    · rw [if_neg hw]
      exact .inr (.inr ⟨by simpa using hw, rfl⟩)

/-! ## Software-generated interrupts (R231, R251, R252) -/

/-- The sources that SGIR leaves (R231). -/
theorem raiseSgi_sgiSources (sgi : Nat) (c : Cpu) (targets : CpuMask) (s : State) (t : Cpu) (i : Nat) (hs : sgi < 16) :
    (raiseSgi sgi c targets s).sgiSources t i =
      if targets.getLsbD t.val = true ∧ i = sgi then s.sgiSources t i ||| bit c.val else s.sgiSources t i := by
  have h8 : List.finRange 8 = [0, 1, 2, 3, 4, 5, 6, 7] := by decide
  have step : ∀ (s : State) (u : Cpu), (if targets.getLsbD u.val then raiseSgiOn sgi c u s else s).sgiSources t i =
      if u = t ∧ targets.getLsbD t.val = true ∧ i = sgi then s.sgiSources t i ||| bit c.val else s.sgiSources t i := by
    intro s u
    by_cases hu : u = t
    · subst hu
      by_cases ht : targets.getLsbD u.val = true
      · rw [if_pos ht, raiseSgiOn, State.onStore_sgiSources, State.setSgiSources_sgiSources]
        split_ifs with h1 h2 h2
        · rw [h1.2.1]
        · exact absurd ⟨rfl, ht, h1.2.1⟩ h2
        · exact absurd ⟨rfl, h2.2.2, hs⟩ h1
        · rfl
      · rw [if_neg ht, if_neg (fun h => ht h.2.1)]
    · rw [if_neg (c := u = t ∧ _) (fun h => hu h.1)]
      split_ifs
      · rw [raiseSgiOn, State.onStore_sgiSources, State.setSgiSources_sgiSources, if_neg (fun h => hu h.1.symm)]
      · rfl
  rw [raiseSgi, h8]
  simp only [List.foldl_cons, List.foldl_nil, step]
  fin_cases t <;> simp

/-- The pending bits that SGIR leaves (R231). -/
theorem raiseSgi_pending (sgi : Nat) (c : Cpu) (targets : CpuMask) (s : State) (t : Cpu) (irq : Irq) :
    (maskAt (raiseSgi sgi c targets s).store.pending irq.val).getLsbD t.val =
      if targets.getLsbD t.val = true ∧ irq.val = sgi then true else (maskAt s.store.pending irq.val).getLsbD t.val := by
  have h8 : List.finRange 8 = [0, 1, 2, 3, 4, 5, 6, 7] := by decide
  have step : ∀ (s : State) (u : Cpu),
      (maskAt (if targets.getLsbD u.val then raiseSgiOn sgi c u s else s).store.pending irq.val).getLsbD t.val =
      if u = t ∧ targets.getLsbD t.val = true ∧ irq.val = sgi then true
        else (maskAt s.store.pending irq.val).getLsbD t.val := by
    intro s u
    by_cases ht : targets.getLsbD u.val = true
    · rw [if_pos ht, raiseSgiOn, State.onStore_store, State.setSgiSources_store, Store.setPending_pending,
        maskAt_setMask_irq]
      by_cases hi : irq.val = sgi
      · rw [if_pos hi, if_pos rfl, BitVec.getLsbD_or, bit_getLsbD]
        by_cases hu : u = t
        · subst hu; simp [hi, ht]
        · rw [if_neg (fun h => hu h.1), decide_eq_false (fun h => hu h.symm), Bool.or_false, hi]
      · rw [if_neg hi, if_neg (fun h => hi h.2.2)]
    · rw [if_neg ht, if_neg]
      rintro ⟨rfl, h, -⟩
      exact ht h
  rw [raiseSgi, h8]
  simp only [List.foldl_cons, List.foldl_nil, step]
  fin_cases t <;> simp

/-- SGIR changes the sources and the pending masks alone (R231). -/
theorem raiseSgi_eq (sgi : Nat) (c : Cpu) (targets : CpuMask) (s : State) :
    raiseSgi sgi c targets s = { s with
      sgiSrc := (raiseSgi sgi c targets s).sgiSrc
      store := { s.store with pending := (raiseSgi sgi c targets s).store.pending } } := by
  refine foldl_inv (fun t : State => t = { s with
    sgiSrc := t.sgiSrc, store := { s.store with pending := t.store.pending } }) _ _ (fun t u _ ht => ?_) s rfl
  dsimp only
  split_ifs
  · rw [ht]; rfl
  · exact ht

/-- One byte of a SPENDSGIR or CPENDSGIR write (R251, R252). -/
theorem writeSgiSources_eq (c : Cpu) (i : Nat) (v : CpuMask) (s : State) (h : i < 16) :
    writeSgiSources c i v s = { s with
      sgiSrc := bankSet s.sgiSrc c i v
      store := { s.store with pending := setMask s.store.pending i (v != 0#8) (bit c.val) } } := by
  rw [writeSgiSources, if_pos h]; rfl

theorem writeSgiSources_of_ge (c : Cpu) (i : Nat) (v : CpuMask) (s : State) (h : 16 ≤ i) :
    writeSgiSources c i v s = s := by rw [writeSgiSources, if_neg (Nat.not_lt.mpr h)]

end Sys2Proof.Machine
end

