-- ==== Sys2Proof/Laws/Distributor.lean ====
section
/-! SUPPORT. What the shared operations of Machine/Distributor.lean can do: the words read, and the one piece of state
that each kind of write changes. -/

namespace Sys2Proof.Machine

/-- Bit `b` of a one-bit-per-ID register (R125). -/
theorem bitWord_getLsbD (p : Params) (word : Nat) (test : Nat → Bool) (b : Nat) (h : b < 32) :
    (bitWord p word test).getLsbD b = (p.impl (32 * word + b) && test (32 * word + b)) :=
  packBits_getLsbD _ _ h

/-! ## The writes of the one-bit-per-ID registers, at one ID -/

theorem forWordIds_enableId_enabled (p : Params) (word : Nat) (data : Word) (c : Cpu) (st : Store) (irq : Irq) :
    maskAt (forWordIds p word data (enableId c) st).enabled irq.val =
      if wordSelects p word data irq.val then maskAt st.enabled irq.val ||| maskFor irq.val c
      else maskAt st.enabled irq.val :=
  forWordIds_at p word data (enableId c) irq.val (fun st => maskAt st.enabled irq.val)
    (fun m => m ||| maskFor irq.val c)
    (fun st => by simp [enableId_eq, maskAt_setMask_irq])
    (fun st j hj => by simp [enableId_eq, maskAt_setMask_irq, Ne.symm hj]) st

theorem forWordIds_disableId_enabled (p : Params) (word : Nat) (data : Word) (c : Cpu) (st : Store) (irq : Irq) :
    maskAt (forWordIds p word data (disableId c) st).enabled irq.val =
      if wordSelects p word data irq.val then maskAt st.enabled irq.val &&& ~~~(maskFor irq.val c)
      else maskAt st.enabled irq.val :=
  forWordIds_at p word data (disableId c) irq.val (fun st => maskAt st.enabled irq.val)
    (fun m => m &&& ~~~(maskFor irq.val c))
    (fun st => by simp [disableId_eq, maskAt_setMask_irq])
    (fun st j hj => by simp [disableId_eq, maskAt_setMask_irq, Ne.symm hj]) st

theorem forWordIds_pendId_pending (p : Params) (word : Nat) (data : Word) (v : Bool) (c : Cpu) (st : Store) (irq : Irq) :
    maskAt (forWordIds p word data (pendId v c) st).pending irq.val =
      if wordSelects p word data irq.val = true ∧ 16 ≤ irq.val then
        (if v then maskAt st.pending irq.val ||| maskFor irq.val c else maskAt st.pending irq.val &&& ~~~(maskFor irq.val c))
      else maskAt st.pending irq.val := by
  have h := forWordIds_at p word data (pendId v c) irq.val (fun st => maskAt st.pending irq.val)
    (fun m => if 16 ≤ irq.val then (if v then m ||| maskFor irq.val c else m &&& ~~~(maskFor irq.val c)) else m)
    (fun st => by simp only [pendId_eq]; split_ifs <;> simp_all [maskAt_setMask_irq])
    (fun st j hj => by simp only [pendId_eq]; split_ifs <;> simp [maskAt_setMask_irq, Ne.symm hj]) st
  refine h.trans ?_
  split_ifs <;> first | rfl | tauto

theorem forWordIds_deactId_active (p : Params) (word : Nat) (data : Word) (c : Cpu) (st : Store) (irq : Irq) :
    maskAt (forWordIds p word data (deactId c) st).active irq.val =
      if wordSelects p word data irq.val then maskAt st.active irq.val &&& ~~~(maskFor irq.val c)
      else maskAt st.active irq.val :=
  forWordIds_at p word data (deactId c) irq.val (fun st => maskAt st.active irq.val)
    (fun m => m &&& ~~~(maskFor irq.val c))
    (fun st => by simp [deactId_eq, maskAt_setMask_irq])
    (fun st j hj => by simp [deactId_eq, maskAt_setMask_irq, Ne.symm hj]) st

/-! ## What else such a write changes: nothing -/

theorem forWordIds_enableId_eq (p : Params) (word : Nat) (data : Word) (c : Cpu) (st : Store) :
    forWordIds p word data (enableId c) st = { st with
      enabled := (forWordIds p word data (enableId c) st).enabled
      pending := (forWordIds p word data (enableId c) st).pending } :=
  forWordIds_inv p word data (enableId c) (fun t => t = { st with enabled := t.enabled, pending := t.pending })
    (fun t j _ ht => by rw [enableId_eq]; dsimp only; congr 1 <;> rw [ht]) st rfl

theorem forWordIds_disableId_eq (p : Params) (word : Nat) (data : Word) (c : Cpu) (st : Store) :
    forWordIds p word data (disableId c) st = { st with
      enabled := (forWordIds p word data (disableId c) st).enabled } :=
  forWordIds_inv p word data (disableId c) (fun t => t = { st with enabled := t.enabled })
    (fun t j _ ht => by rw [disableId_eq]; dsimp only; congr 1 <;> rw [ht]) st rfl

theorem forWordIds_pendId_eq (p : Params) (word : Nat) (data : Word) (v : Bool) (c : Cpu) (st : Store) :
    forWordIds p word data (pendId v c) st = { st with
      pending := (forWordIds p word data (pendId v c) st).pending } :=
  forWordIds_inv p word data (pendId v c) (fun t => t = { st with pending := t.pending })
    (fun t j _ ht => by rw [pendId_eq]; dsimp only; congr 1 <;> rw [ht]) st rfl

theorem forWordIds_deactId_eq (p : Params) (word : Nat) (data : Word) (c : Cpu) (st : Store) :
    forWordIds p word data (deactId c) st = { st with
      active := (forWordIds p word data (deactId c) st).active } :=
  forWordIds_inv p word data (deactId c) (fun t => t = { st with active := t.active })
    (fun t j _ ht => by rw [deactId_eq]; dsimp only; congr 1 <;> rw [ht]) st rfl

/-! ## The byte writes -/

/-- `forBytes` keeps an invariant that each of its steps keeps. -/
theorem forBytes_inv {σ : Type} (n : Width) (P : σ → Prop) (f : Nat → σ → σ) (h : ∀ x k, P x → P (f k x)) (x : σ)
    (hx : P x) : P (forBytes n f x) := foldl_inv P _ _ (fun x k _ => h x k) x hx

theorem forBytes_setPrioPriv_eq (n : Width) (s : State) (c : Cpu) (first : Nat) (data : Word) :
    forBytes n (fun k t => State.setPrioPriv t c (first + k) (byteOf data k)) s = { s with
      prioPriv := (forBytes n (fun k t => State.setPrioPriv t c (first + k) (byteOf data k)) s).prioPriv } :=
  forBytes_inv n (fun t : State => t = { s with prioPriv := t.prioPriv }) _ (fun t k ht => by rw [ht]; rfl) s rfl

/-- A condition on the step, over an update of one field. -/
theorem forBytes_setPrioSpi_eq (n : Width) (s : State) (first : Nat) (data : Word) (p : Params) :
    forBytes n (fun k t => if p.impl (first + k) then State.setPrioSpi t (first + k) (byteOf data k) else t) s = { s with
      prioSpi := (forBytes n
        (fun k t => if p.impl (first + k) then State.setPrioSpi t (first + k) (byteOf data k) else t) s).prioSpi } :=
  forBytes_inv n (fun t : State => t = { s with prioSpi := t.prioSpi }) _ (fun t k ht => by
    unfold State.setPrioSpi
    split_ifs
    · rw [ht]
    · exact ht
    · exact ht) s rfl

theorem forBytes_setTargets_eq (n : Width) (s : State) (first : Nat) (data : Word) (p : Params) :
    forBytes n (fun k t => if p.impl (first + k) then State.setTargets t (first + k) (byteOf data k) else t) s = { s with
      itargets := (forBytes n
        (fun k t => if p.impl (first + k) then State.setTargets t (first + k) (byteOf data k) else t) s).itargets } :=
  forBytes_inv n (fun t : State => t = { s with itargets := t.itargets }) _ (fun t k ht => by
    unfold State.setTargets
    split_ifs
    · rw [ht]
    · exact ht
    · exact ht) s rfl

/-- A SPENDSGIR or CPENDSGIR write changes the sources and the pending masks alone (R251, R252). -/
theorem forBytes_writeSgiSources_eq (n : Width) (s : State) (c : Cpu) (first : Nat) (g : Nat → CpuMask → CpuMask) :
    forBytes n (fun k t => writeSgiSources c (first + k) (g k (t.sgiSources c (first + k))) t) s = { s with
      sgiSrc := (forBytes n
        (fun k t => writeSgiSources c (first + k) (g k (t.sgiSources c (first + k))) t) s).sgiSrc
      store := { s.store with pending := (forBytes n
        (fun k t => writeSgiSources c (first + k) (g k (t.sgiSources c (first + k))) t) s).store.pending } } :=
  forBytes_inv n (fun t : State => t = { s with
    sgiSrc := t.sgiSrc, store := { s.store with pending := t.store.pending } }) _ (fun t k ht => by
    by_cases hk : first + k < 16
    · rw [writeSgiSources_eq _ _ _ _ hk, ht]
    · rw [writeSgiSources_of_ge _ _ _ _ (by omega)]
      exact ht) s rfl

end Sys2Proof.Machine
end

