-- ==== Sys2Proof/Laws/Exec.lean ====
section
/-! SUPPORT. What a step can do, said once: the initiator of an access, the effect of each instruction before the UPDATE
that may follow it, and the two inversions `exec_effect` and `step_cases` that every invariant is proved from. -/

namespace Sys2Proof.Machine

/-- The initiator of an access (R81). -/
def initiatorOf : Instr → Option Nat
  | .rdGicdCtlr init => some init
  | .wrGicdCtlr init _ => some init
  | .rdGicdTyper init => some init
  | .rdGicdIsenabler0 init => some init
  | .wrGicdIsenabler0 init _ => some init
  | .rdGicdIsenablerSpi _ init => some init
  | .wrGicdIsenablerSpi _ init _ => some init
  | .rdGicdIcenabler0 init => some init
  | .wrGicdIcenabler0 init _ => some init
  | .rdGicdIcenablerSpi _ init => some init
  | .wrGicdIcenablerSpi _ init _ => some init
  | .rdGicdIspendr0 init => some init
  | .wrGicdIspendr0 init _ => some init
  | .rdGicdIspendrSpi _ init => some init
  | .wrGicdIspendrSpi _ init _ => some init
  | .rdGicdIcpendr0 init => some init
  | .wrGicdIcpendr0 init _ => some init
  | .rdGicdIcpendrSpi _ init => some init
  | .wrGicdIcpendrSpi _ init _ => some init
  | .rdGicdIsactiver0 init => some init
  | .rdGicdIsactiverSpi _ init => some init
  | .rdGicdIcactiver0 init => some init
  | .wrGicdIcactiver0 init _ => some init
  | .rdGicdIcactiverSpi _ init => some init
  | .wrGicdIcactiverSpi _ init _ => some init
  | .rdGicdIpriorityrPriv _ _ init => some init
  | .wrGicdIpriorityrPriv _ _ init _ => some init
  | .rdGicdIpriorityrSpi _ _ init => some init
  | .wrGicdIpriorityrSpi _ _ init _ => some init
  | .rdGicdItargetsrPriv _ _ init => some init
  | .rdGicdItargetsrSpi _ _ init => some init
  | .wrGicdItargetsrSpi _ _ init _ => some init
  | .rdGicdIcfgr0 init => some init
  | .rdGicdIcfgr1 init => some init
  | .wrGicdIcfgr1 init _ => some init
  | .rdGicdIcfgrSpi _ init => some init
  | .wrGicdIcfgrSpi _ init _ => some init
  | .wrGicdSgir init _ => some init
  | .rdGicdCpendsgir _ _ init => some init
  | .wrGicdCpendsgir _ _ init _ => some init
  | .rdGicdSpendsgir _ _ init => some init
  | .wrGicdSpendsgir _ _ init _ => some init
  | .rdGiccCtlr init => some init
  | .wrGiccCtlr init _ => some init
  | .rdGiccPmr init => some init
  | .wrGiccPmr init _ => some init
  | .rdGiccBpr init => some init
  | .wrGiccBpr init _ => some init
  | .rdGiccIar init => some init
  | .wrGiccEoir init _ => some init
  | .rdGiccRpr init => some init
  | .rdGiccHppir init => some init
  | .rdGiccAbpr init => some init
  | .wrGiccAbpr init _ => some init
  | .rdGicvCtlr init => some init
  | .wrGicvCtlr init _ => some init
  | .rdGicvPmr init => some init
  | .wrGicvPmr init _ => some init
  | .rdGicvBpr init => some init
  | .wrGicvBpr init _ => some init
  | .rdGicvIar init => some init
  | .wrGicvEoir init _ => some init
  | .rdGicvRpr init => some init
  | .rdGicvHppir init => some init
  | .rdGicvAbpr init => some init
  | .wrGicvAbpr init _ => some init
  | .rdGichHcr init => some init
  | .wrGichHcr init _ => some init
  | .rdGichVtr init => some init
  | .rdGichVmcr init => some init
  | .wrGichVmcr init _ => some init
  | .rdGichApr init => some init
  | .wrGichApr init _ => some init
  | .rdGichLr _ init => some init
  | .wrGichLr _ init _ => some init
  | .lineLevel _ _ => none
  | .lineEdge _ _ => none
  | .reset => none
  | .accessError _ _ init _ => some init

/-- The effect of an instruction performed for CPU `c`, before the UPDATE that follows it: `Effect i c s u` says that
`i` makes `u` of `s`. An instruction that changes nothing has no effect. -/
inductive Effect : Instr → Cpu → State → State → Prop where
  /-- A GICD_CTLR write (R201). -/
  | dctlr (c : Cpu) (s : State) (init : Nat) (data : Word) :
      Effect (.wrGicdCtlr init data) c s (s.setDctlr (data.extractLsb' 0 2))
  /-- An ISENABLER write (R202). -/
  | enable (c : Cpu) (s : State) (i : Instr) (word init : Nat) (data : Word)
      (h : (word = 0 ∧ i = .wrGicdIsenabler0 init data) ∨ i = .wrGicdIsenablerSpi word init data) :
      Effect i c s (writeWord s word data (enableId c))
  /-- An ICENABLER write (R203). -/
  | disable (c : Cpu) (s : State) (i : Instr) (word init : Nat) (data : Word)
      (h : (word = 0 ∧ i = .wrGicdIcenabler0 init data) ∨ i = .wrGicdIcenablerSpi word init data) :
      Effect i c s (writeWord s word data (disableId c))
  /-- An ISPENDR (`v`) or ICPENDR write (R210, R211). -/
  | pend (c : Cpu) (s : State) (i : Instr) (v : Bool) (word init : Nat) (data : Word)
      (h : (word = 0 ∧ (i = .wrGicdIspendr0 init data ∨ i = .wrGicdIcpendr0 init data)) ∨
        i = .wrGicdIspendrSpi word init data ∨ i = .wrGicdIcpendrSpi word init data) :
      Effect i c s (writeWord s word data (pendId v c))
  /-- An ICACTIVER write (R222). -/
  | clearActive (c : Cpu) (s : State) (i : Instr) (word init : Nat) (data : Word)
      (h : (word = 0 ∧ i = .wrGicdIcactiver0 init data) ∨ i = .wrGicdIcactiverSpi word init data) :
      Effect i c s (writeWord s word data (deactId c))
  /-- An IPRIORITYR write of IDs below 32 (R225). -/
  | prioPriv (c : Cpu) (s : State) (first : Nat) (n : Width) (init : Nat) (data : Word) :
      Effect (.wrGicdIpriorityrPriv first n init data) c s
        (forBytes n (fun k t => State.setPrioPriv t c (first + k) (byteOf data k)) s)
  /-- An IPRIORITYR write of SPIs (R226). -/
  | prioSpi (c : Cpu) (s : State) (first : Nat) (n : Width) (init : Nat) (data : Word) :
      Effect (.wrGicdIpriorityrSpi first n init data) c s
        (forBytes n (fun k t => if s.params.impl (first + k) then t.setPrioSpi (first + k) (byteOf data k) else t) s)
  /-- An ITARGETSR write (R229). -/
  | targets (c : Cpu) (s : State) (first : Nat) (n : Width) (init : Nat) (data : Word) :
      Effect (.wrGicdItargetsrSpi first n init data) c s
        (forBytes n (fun k t => if s.params.impl (first + k) then t.setTargets (first + k) (byteOf data k) else t) s)
  /-- An ICFGR write (R241). -/
  | icfgr (c : Cpu) (s : State) (i : Instr) (word init : Nat) (data : Word)
      (h : (word = 1 ∧ i = .wrGicdIcfgr1 init data) ∨ i = .wrGicdIcfgrSpi word init data) :
      Effect i c s (writeIcfgr s word data)
  /-- An SGIR write (R231). -/
  | sgir (c : Cpu) (s : State) (init : Nat) (data : Word) (targets : CpuMask)
      (h : sgirTargets s.params c data = some targets) :
      Effect (.wrGicdSgir init data) c s (raiseSgi (sgirSgi data) c targets s)
  /-- A SPENDSGIR or CPENDSGIR write (R251, R252). -/
  | sgiSources (c : Cpu) (s : State) (i : Instr) (first : Nat) (n : Width) (init : Nat) (data : Word)
      (g : Nat → CpuMask → CpuMask)
      (h : i = .wrGicdSpendsgir first n init data ∨ i = .wrGicdCpendsgir first n init data) :
      Effect i c s (forBytes n (fun k t => writeSgiSources c (first + k) (g k (t.sgiSources c (first + k))) t) s)
  /-- A write of a plain register of the CPU interface (R271 to R273). -/
  | cpuRegister (c : Cpu) (s : State) (i : Instr) (r : CpuIf) (hs : r.stk = (s.cpuIf c).stk)
      (hr : r.rpr = (s.cpuIf c).rpr)
      (h : ∃ (init : Nat) (data : Word), i = .wrGiccCtlr init data ∨ i = .wrGiccPmr init data ∨
        i = .wrGiccBpr init data ∨ i = .wrGiccAbpr init data) : Effect i c s (s.setCpuIf c r)
  /-- An acknowledge (R275). -/
  | take (c : Cpu) (s : State) (init : Nat) (irq : Irq) (h : viable s c = some irq) :
      Effect (.rdGiccIar init) c s (takeInterrupt s c irq)
  /-- An in-order end of interrupt (R282). -/
  | endInOrder (c : Cpu) (s : State) (init : Nat) (data : Word) (irq : Irq) (rest : List Irq)
      (h : (s.cpuIf c).stk = irq :: rest) (hid : irq.val = eoirId data) :
      Effect (.wrGiccEoir init data) c s (endInOrder s c irq rest)
  /-- An out-of-order end of interrupt (R283). -/
  | endOutOfOrder (c : Cpu) (s : State) (init : Nat) (data : Word) (irq top : Irq) (rest : List Irq)
      (h : (s.cpuIf c).stk = top :: rest) (hne : irq ≠ top) (hmem : irq ∈ rest) (hid : irq.val = eoirId data) :
      Effect (.wrGiccEoir init data) c s (endOutOfOrder s c irq)
  /-- A write of a plain register of the virtual interfaces (R321, R326, R361 to R363). -/
  | virtualRegister (c : Cpu) (s : State) (i : Instr) (v : VirtIf) (hl : v.lr = (s.virtIf c).lr)
      (ha : v.apr = (s.virtIf c).apr) (hr : v.rpr = (s.virtIf c).rpr)
      (h : ∃ (init : Nat) (data : Word), i = .wrGichHcr init data ∨ i = .wrGichVmcr init data ∨
        i = .wrGicvCtlr init data ∨ i = .wrGicvPmr init data ∨ i = .wrGicvBpr init data ∨
        i = .wrGicvAbpr init data) : Effect i c s (s.setVirtIf c v)
  /-- A GICH_APR write (R330). -/
  | apr (c : Cpu) (s : State) (init : Nat) (data : Word) :
      Effect (.wrGichApr init data) c s
        (s.setVirtIf c { s.virtIf c with apr := data, rpr := aprPrio s.params.aprSelect data })
  /-- A GICH_LR write (R322). -/
  | listReg (c : Cpu) (s : State) (j : LrIx) (init : Nat) (data : Word) :
      Effect (.wrGichLr j init data) c s (s.setVirtIf c ((s.virtIf c).setListReg j (listRegOfWord data)))
  /-- A virtual acknowledge (R366). -/
  | takeVirtual (c : Cpu) (s : State) (init : Nat) (j : LrIx) (h : viableVirtual s c = some j) :
      Effect (.rdGicvIar init) c s (s.setVirtIf c (takeVirtual s.params.aprSelect (s.virtIf c) j))
  /-- A virtual end of interrupt (R370 to R373). -/
  | endVirtual (c : Cpu) (s : State) (init : Nat) (data : Word) (vid : BitVec 10)
      (hid : vid = data.extractLsb' 0 10) (h : vid.toNat < 512) :
      Effect (.wrGicvEoir init data) c s
        (virtualDeactivate (s.setVirtIf c (virtualDrop s.params.aprSelect (s.virtIf c))) c vid).1
  /-- A level-triggered line event (R171). -/
  | lineLevel (c : Cpu) (s : State) (port : Port) (v : Bool)
      (h : v ≠ s.store.isLevel port.irq (portMask port)) :
      Effect (.lineLevel port v) c s (s.onStore (lineLevelStore port.irq (portMask port) v))
  /-- An edge-triggered line event (R172). -/
  | lineEdge (c : Cpu) (s : State) (port : Port) (v : Bool)
      (h : v ≠ s.store.isLevel port.irq (portMask port)) :
      Effect (.lineEdge port v) c s
        (s.onStore (lineEdgeStore s.params.edgeGatedBySignaled port.irq (portMask port) v))
  /-- Reset (R480). -/
  | reset (c : Cpu) (s : State) : Effect .reset c s { State.resetWith s.params with inbox := s.inbox }

/-- Everything an instruction can do: it leaves the state, or it has its effect and re-arbitrates, or it is the one
write that does not re-arbitrate (R222, R412). It gives a response and diagnostics besides. -/
def Outcomes (i : Instr) (c : Cpu) (s u : State) : Prop :=
  u = s ∨ (∃ v : State, Effect i c s v ∧ u = update v) ∨
    ((∃ (init : Nat) (data : Word), i = .wrGicdIcactiver0 init data) ∧ s.params.icactiverPpiUpdates = false ∧
      Effect i c s u)

theorem Outcomes.of_effect {i : Instr} {c : Cpu} {s v : State} (h : Effect i c s v) : Outcomes i c s (update v) :=
  .inr (.inl ⟨v, h, rfl⟩)

/-- The inversion of `exec`. -/
theorem exec_effect (i : Instr) (c : Cpu) (s : State)
    (hc : ∀ init : Nat, initiatorOf i = some init → s.current init = c) :
    ∃ (u : State) (resp : Option Response) (diag : List Diag),
      exec i s = .next (u.setOut resp diag) ∧ Outcomes i c s u := by
  cases i
  case wrGicdCtlr init data => exact ⟨_, _, _, rfl, .of_effect (.dctlr _ _ _ _)⟩
  case wrGicdIsenabler0 init data =>
    obtain rfl := hc init rfl
    exact ⟨_, _, _, rfl, .of_effect (.enable _ _ _ 0 _ _ (.inl ⟨rfl, rfl⟩))⟩
  case wrGicdIsenablerSpi word init data =>
    obtain rfl := hc init rfl
    exact ⟨_, _, _, rfl, .of_effect (.enable _ _ _ _ _ _ (.inr rfl))⟩
  case wrGicdIcenabler0 init data =>
    obtain rfl := hc init rfl
    exact ⟨_, _, _, rfl, .of_effect (.disable _ _ _ 0 _ _ (.inl ⟨rfl, rfl⟩))⟩
  case wrGicdIcenablerSpi word init data =>
    obtain rfl := hc init rfl
    exact ⟨_, _, _, rfl, .of_effect (.disable _ _ _ _ _ _ (.inr rfl))⟩
  case wrGicdIspendr0 init data =>
    obtain rfl := hc init rfl
    exact ⟨_, _, _, rfl, .of_effect (.pend _ _ _ true 0 _ _ (.inl ⟨rfl, .inl rfl⟩))⟩
  case wrGicdIspendrSpi word init data =>
    obtain rfl := hc init rfl
    exact ⟨_, _, _, rfl, .of_effect (.pend _ _ _ true _ _ _ (.inr (.inl rfl)))⟩
  case wrGicdIcpendr0 init data =>
    obtain rfl := hc init rfl
    exact ⟨_, _, _, rfl, .of_effect (.pend _ _ _ false 0 _ _ (.inl ⟨rfl, .inr rfl⟩))⟩
  case wrGicdIcpendrSpi word init data =>
    obtain rfl := hc init rfl
    exact ⟨_, _, _, rfl, .of_effect (.pend _ _ _ false _ _ _ (.inr (.inr rfl)))⟩
  case wrGicdIcactiver0 init data =>
    obtain rfl := hc init rfl
    simp only [exec, execWrGicdIcactiver0]
    split_ifs with h
    · exact ⟨_, _, _, rfl, .of_effect (.clearActive _ _ _ 0 _ _ (.inl ⟨rfl, rfl⟩))⟩
    · exact ⟨_, _, _, rfl, .inr (.inr ⟨⟨_, _, rfl⟩, by simpa using h, .clearActive _ _ _ 0 _ _ (.inl ⟨rfl, rfl⟩)⟩)⟩
  case wrGicdIcactiverSpi word init data =>
    obtain rfl := hc init rfl
    exact ⟨_, _, _, rfl, .of_effect (.clearActive _ _ _ _ _ _ (.inr rfl))⟩
  case wrGicdIpriorityrPriv first n init data =>
    obtain rfl := hc init rfl
    exact ⟨_, _, _, rfl, .of_effect (.prioPriv _ _ _ _ _ _)⟩
  case wrGicdIpriorityrSpi first n init data =>
    exact ⟨_, _, _, rfl, .of_effect (.prioSpi _ _ _ _ _ _)⟩
  case wrGicdItargetsrSpi first n init data =>
    exact ⟨_, _, _, rfl, .of_effect (.targets _ _ _ _ _ _)⟩
  case wrGicdIcfgr1 init data => exact ⟨_, _, _, rfl, .of_effect (.icfgr _ _ _ 1 _ _ (.inl ⟨rfl, rfl⟩))⟩
  case wrGicdIcfgrSpi word init data => exact ⟨_, _, _, rfl, .of_effect (.icfgr _ _ _ _ _ _ (.inr rfl))⟩
  case wrGicdSgir init data =>
    obtain rfl := hc init rfl
    simp only [exec, execWrGicdSgir]
    split
    · exact ⟨_, _, _, rfl, .inl rfl⟩
    · rename_i targets h
      exact ⟨_, _, _, rfl, .of_effect (.sgir _ _ _ _ _ h)⟩
  case wrGicdCpendsgir first n init data =>
    obtain rfl := hc init rfl
    exact ⟨_, _, _, rfl, .of_effect (.sgiSources _ _ _ _ _ _ _ (fun k m => m &&& ~~~(byteOf data k)) (.inr rfl))⟩
  case wrGicdSpendsgir first n init data =>
    obtain rfl := hc init rfl
    exact ⟨_, _, _, rfl, .of_effect (.sgiSources _ _ _ _ _ _ _ (fun k m => m ||| byteOf data k) (.inl rfl))⟩
  case wrGiccCtlr init data =>
    obtain rfl := hc init rfl
    exact ⟨_, _, _, rfl, .of_effect (.cpuRegister _ _ _ _ rfl rfl ⟨init, data, .inl rfl⟩)⟩
  case wrGiccPmr init data =>
    obtain rfl := hc init rfl
    exact ⟨_, _, _, rfl, .of_effect (.cpuRegister _ _ _ _ rfl rfl ⟨init, data, .inr (.inl rfl)⟩)⟩
  case wrGiccBpr init data =>
    obtain rfl := hc init rfl
    exact ⟨_, _, _, rfl, .of_effect (.cpuRegister _ _ _ _ rfl rfl ⟨init, data, .inr (.inr (.inl rfl))⟩)⟩
  case wrGiccAbpr init data =>
    obtain rfl := hc init rfl
    exact ⟨_, _, _, rfl, .of_effect (.cpuRegister _ _ _ _ rfl rfl ⟨init, data, .inr (.inr (.inr rfl))⟩)⟩
  case rdGiccIar init =>
    obtain rfl := hc init rfl
    simp only [exec, execRdGiccIar]
    split
    · exact ⟨_, _, _, rfl, .inl rfl⟩
    · rename_i irq h
      exact ⟨_, _, _, rfl, .of_effect (.take _ _ _ _ h)⟩
  case wrGiccEoir init data =>
    obtain rfl := hc init rfl
    rcases endInterrupt_cases s (s.current init) (eoirId data) with
      ⟨-, h⟩ | ⟨-, h⟩ | ⟨irq, rest, hid, hs, h⟩ | ⟨irq, top, rest, hid, hs, hne, hmem, h⟩ | ⟨-, h⟩ <;>
      simp only [exec, execWrGiccEoir, h]
    · exact ⟨_, _, _, rfl, .inl rfl⟩
    · exact ⟨_, _, _, rfl, .inl rfl⟩
    · exact ⟨_, _, _, rfl, .of_effect (.endInOrder _ _ _ _ _ _ hs hid)⟩
    · exact ⟨_, _, _, rfl, .of_effect (.endOutOfOrder _ _ _ _ _ _ _ hs hne hmem hid)⟩
    · exact ⟨_, _, _, rfl, .inl rfl⟩
  case rdGiccHppir init =>
    simp only [exec, execRdGiccHppir]
    split <;> exact ⟨_, _, _, rfl, .inl rfl⟩
  case wrGicvCtlr init data =>
    obtain rfl := hc init rfl
    exact ⟨_, _, _, rfl, .of_effect (.virtualRegister _ _ _ _ rfl rfl rfl ⟨init, data, .inr (.inr (.inl rfl))⟩)⟩
  case wrGicvPmr init data =>
    obtain rfl := hc init rfl
    exact ⟨_, _, _, rfl,
      .of_effect (.virtualRegister _ _ _ _ rfl rfl rfl ⟨init, data, .inr (.inr (.inr (.inl rfl)))⟩)⟩
  case wrGicvBpr init data =>
    obtain rfl := hc init rfl
    exact ⟨_, _, _, rfl,
      .of_effect (.virtualRegister _ _ _ _ rfl rfl rfl ⟨init, data, .inr (.inr (.inr (.inr (.inl rfl))))⟩)⟩
  case wrGicvAbpr init data =>
    obtain rfl := hc init rfl
    exact ⟨_, _, _, rfl,
      .of_effect (.virtualRegister _ _ _ _ rfl rfl rfl ⟨init, data, .inr (.inr (.inr (.inr (.inr rfl))))⟩)⟩
  case rdGicvIar init =>
    obtain rfl := hc init rfl
    simp only [exec, execRdGicvIar]
    split
    · exact ⟨_, _, _, rfl, .inl rfl⟩
    · rename_i j h
      exact ⟨_, _, _, rfl, .of_effect (.takeVirtual _ _ _ _ h)⟩
  case wrGicvEoir init data =>
    obtain rfl := hc init rfl
    simp only [exec, execWrGicvEoir, endVirtual]
    split_ifs with h
    · exact ⟨_, _, _, rfl, .of_effect (.endVirtual _ _ _ _ _ rfl h)⟩
    · exact ⟨_, _, _, rfl, .inl rfl⟩
  case rdGicvHppir init =>
    simp only [exec, execRdGicvHppir]
    split <;> exact ⟨_, _, _, rfl, .inl rfl⟩
  case wrGichHcr init data =>
    obtain rfl := hc init rfl
    exact ⟨_, _, _, rfl, .of_effect (.virtualRegister _ _ _ _ rfl rfl rfl ⟨init, data, .inl rfl⟩)⟩
  case wrGichVmcr init data =>
    obtain rfl := hc init rfl
    exact ⟨_, _, _, rfl, .of_effect (.virtualRegister _ _ _ _ rfl rfl rfl ⟨init, data, .inr (.inl rfl)⟩)⟩
  case wrGichApr init data =>
    obtain rfl := hc init rfl
    exact ⟨_, _, _, rfl, .of_effect (.apr _ _ _ _)⟩
  case wrGichLr j init data =>
    obtain rfl := hc init rfl
    exact ⟨_, _, _, rfl, .of_effect (.listReg _ _ _ _ _)⟩
  case lineLevel port v =>
    simp only [exec, execLineLevel]
    split_ifs with h
    · exact ⟨_, _, _, rfl, .inl rfl⟩
    · exact ⟨_, _, _, rfl, .of_effect (.lineLevel _ _ _ _ h)⟩
  case lineEdge port v =>
    simp only [exec, execLineEdge]
    split_ifs with h
    · exact ⟨_, _, _, rfl, .inl rfl⟩
    · exact ⟨_, _, _, rfl, .of_effect (.lineEdge _ _ _ _ h)⟩
  case reset => exact ⟨_, _, _, rfl, .of_effect (.reset _ _)⟩
  all_goals exact ⟨_, _, _, rfl, .inl rfl⟩

/-! ## Steps -/

/-- The inversion of `step`: nothing was delivered, or the oldest request decodes to an instruction that is performed on
the state without the request. -/
theorem step_cases {s t : State} (h : step s = .next t) :
    (s.inbox = [] ∧ t = s) ∨
    ∃ (r : Request) (rest : List Request) (i : Instr), s.inbox = r :: rest ∧
      decode s.params s.store.triggerOf r = .ok i ∧ exec i { s with inbox := rest } = .next t := by
  rw [step, State.fetch] at h
  cases hi : s.inbox with
  | nil =>
    rw [hi] at h
    cases h
    exact .inl ⟨rfl, rfl⟩
  | cons r rest =>
    rw [hi] at h
    dsimp only at h
    refine .inr ⟨r, rest, ?_⟩
    cases hd : State.decodeRequest { s with inbox := rest } r with
    | error e => cases e; rw [hd] at h; cases h
    | ok i => rw [hd] at h; exact ⟨i, rfl, hd, h⟩

/-- A CPU to read the effect of an instruction for: its initiator's, or any for one that is no access. -/
def effectCpu (i : Instr) (s : State) : Cpu :=
  match initiatorOf i with
  | some init => s.current init
  | none => 0

/-- What every effect and every UPDATE keeps, and what does not see the response or the queue, every step keeps. -/
theorem step_keeps (P : State → Prop) (hout : ∀ (s : State) (resp : Option Response) (diag : List Diag),
      P s → P (s.setOut resp diag))
    (hin : ∀ (s : State) (rest : List Request), P s → P { s with inbox := rest }) (hup : ∀ s : State, P s → P (update s))
    (heff : ∀ (i : Instr) (c : Cpu) (s u : State), Effect i c s u → P s → P u) (s t : State) (hs : P s)
    (h : step s = .next t) : P t := by
  rcases step_cases h with ⟨-, rfl⟩ | ⟨r, rest, i, -, -, he⟩
  · exact hs
  · obtain ⟨u, resp, diag, hu, ho⟩ := exec_effect i (effectCpu i { s with inbox := rest }) { s with inbox := rest }
      (fun init hi => by simp only [effectCpu, hi])
    rw [hu] at he
    cases he
    refine hout _ _ _ ?_
    rcases ho with rfl | ⟨v, hv, rfl⟩ | ⟨-, -, hv⟩
    · exact hin s rest hs
    · exact hup _ (heff _ _ _ _ hv (hin s rest hs))
    · exact heff _ _ _ _ hv (hin s rest hs)

/-- The rows pass the initiator on. -/
theorem rows_initiator : ∀ r ∈ rows, ∀ (off : Nat) (n : Width) (init : Nat) (data : Word),
    initiatorOf (r.build off n init data) = some init := by
  simp [rows, distributorRows, cpuRows, vcpuRows, vifctrlRows, oneWord, wordArray, byteArray, initiatorOf]

/-- The initiator of what an access decodes to. -/
theorem decodeBus_initiator (key : BitVec 16) (n : Width) (init : Nat) (data : Word) :
    initiatorOf (decodeBus key n init data) = some init := by
  rw [decodeBus]
  cases h : selectRow key n with
  | none => rfl
  | some r => exact rows_initiator r (List.mem_of_find?_eq_some h) _ _ _ _

/-- The one row whose instruction is the GICD_SGIR write. -/
theorem rows_sgir : ∀ r ∈ rows, ∀ (off : Nat) (n : Width) (init : Nat) (data : Word) (init' : Nat) (data' : Word),
    r.build off n init data = .wrGicdSgir init' data' →
    r.pattern = 0x2F00#16 ∧ r.mask = 0xffff#16 ∧ r.widths = [.w4] := by
  simp [rows, distributorRows, cpuRows, vcpuRows, vifctrlRows, oneWord, wordArray, byteArray]

/-- The one access that decodes to the GICD_SGIR write. -/
theorem key_of_decodeBus_sgir {key : BitVec 16} {n : Width} {init init' : Nat} {data data' : Word}
    (h : decodeBus key n init data = .wrGicdSgir init' data') : key = 0x2F00#16 ∧ n = .w4 := by
  rw [decodeBus] at h
  cases hr : selectRow key n with
  | none => rw [hr] at h; cases h
  | some r =>
    rw [hr] at h
    obtain ⟨hp, hm, hw⟩ := rows_sgir r (List.mem_of_find?_eq_some hr) _ _ _ _ _ _ h
    have ha : r.accepts key n = true := List.find?_some (p := fun r : Row => r.accepts key n) hr
    obtain ⟨hk, -, -, hn, -⟩ := (accepts_iff r key n).mp ha
    rw [hm, hp] at hk
    rw [hw] at hn
    exact ⟨(BitVec.and_allOnes (x := key)).symm.trans hk, List.mem_singleton.mp hn⟩

end Sys2Proof.Machine
end

