-- ==== Sys2Proof/Laws/PerInstr.lean ====
section
/-! SUPPORT. The per-instruction family `Canonical`: what a well-formed instruction encodes to carries exactly the data
its access carries (20_memory.md R81). -/

namespace Sys2Proof.Laws

/-- The encoding of a well-formed instruction carries no data beyond its access's lanes. -/
def Canonical.Statement (i : Instr) : Prop := ∀ p : Params, i.wf p = true → (encode i).canonical = encode i

theorem word_off_lt {lo hi base word : Nat} (h : wordOk lo hi word = true) (hb : base + 4 * hi < 8192) :
    base + 4 * word < 8192 := by
  simp only [wordOk, Bool.and_eq_true, decide_eq_true_eq] at h
  omega

theorem byte_off_lt {lo hi base first : Nat} {n : Width} (h : bytesOk lo hi first n = true)
    (hb : base + hi < 8192) : base + first < 8192 := by
  simp only [bytesOk, Bool.and_eq_true, decide_eq_true_eq] at h
  omega

theorem Canonical.rdGicdCtlr (init : Nat) :
    Canonical.Statement (.rdGicdCtlr init) := fun _ _ => rd_canonical _ _ _ _ (by decide)

theorem Canonical.wrGicdCtlr (init : Nat) (data : Word) :
    Canonical.Statement (.wrGicdCtlr init data) := fun _ _ => wr_canonical _ _ _ _ _ (by decide) rfl

theorem Canonical.rdGicdTyper (init : Nat) :
    Canonical.Statement (.rdGicdTyper init) := fun _ _ => rd_canonical _ _ _ _ (by decide)

theorem Canonical.rdGicdIsenabler0 (init : Nat) :
    Canonical.Statement (.rdGicdIsenabler0 init) := fun _ _ => rd_canonical _ _ _ _ (by decide)

theorem Canonical.wrGicdIsenabler0 (init : Nat) (data : Word) :
    Canonical.Statement (.wrGicdIsenabler0 init data) := fun _ _ => wr_canonical _ _ _ _ _ (by decide) rfl

theorem Canonical.rdGicdIsenablerSpi (word : Nat) (init : Nat) :
    Canonical.Statement (.rdGicdIsenablerSpi word init) := fun _ h => rd_canonical _ _ _ _ (word_off_lt h (by decide))

theorem Canonical.wrGicdIsenablerSpi (word : Nat) (init : Nat) (data : Word) :
    Canonical.Statement (.wrGicdIsenablerSpi word init data) :=
  fun _ h => wr_canonical _ _ _ _ _ (word_off_lt h (by decide)) rfl

theorem Canonical.rdGicdIcenabler0 (init : Nat) :
    Canonical.Statement (.rdGicdIcenabler0 init) := fun _ _ => rd_canonical _ _ _ _ (by decide)

theorem Canonical.wrGicdIcenabler0 (init : Nat) (data : Word) :
    Canonical.Statement (.wrGicdIcenabler0 init data) := fun _ _ => wr_canonical _ _ _ _ _ (by decide) rfl

theorem Canonical.rdGicdIcenablerSpi (word : Nat) (init : Nat) :
    Canonical.Statement (.rdGicdIcenablerSpi word init) := fun _ h => rd_canonical _ _ _ _ (word_off_lt h (by decide))

theorem Canonical.wrGicdIcenablerSpi (word : Nat) (init : Nat) (data : Word) :
    Canonical.Statement (.wrGicdIcenablerSpi word init data) :=
  fun _ h => wr_canonical _ _ _ _ _ (word_off_lt h (by decide)) rfl

theorem Canonical.rdGicdIspendr0 (init : Nat) :
    Canonical.Statement (.rdGicdIspendr0 init) := fun _ _ => rd_canonical _ _ _ _ (by decide)

theorem Canonical.wrGicdIspendr0 (init : Nat) (data : Word) :
    Canonical.Statement (.wrGicdIspendr0 init data) := fun _ _ => wr_canonical _ _ _ _ _ (by decide) rfl

theorem Canonical.rdGicdIspendrSpi (word : Nat) (init : Nat) :
    Canonical.Statement (.rdGicdIspendrSpi word init) := fun _ h => rd_canonical _ _ _ _ (word_off_lt h (by decide))

theorem Canonical.wrGicdIspendrSpi (word : Nat) (init : Nat) (data : Word) :
    Canonical.Statement (.wrGicdIspendrSpi word init data) :=
  fun _ h => wr_canonical _ _ _ _ _ (word_off_lt h (by decide)) rfl

theorem Canonical.rdGicdIcpendr0 (init : Nat) :
    Canonical.Statement (.rdGicdIcpendr0 init) := fun _ _ => rd_canonical _ _ _ _ (by decide)

theorem Canonical.wrGicdIcpendr0 (init : Nat) (data : Word) :
    Canonical.Statement (.wrGicdIcpendr0 init data) := fun _ _ => wr_canonical _ _ _ _ _ (by decide) rfl

theorem Canonical.rdGicdIcpendrSpi (word : Nat) (init : Nat) :
    Canonical.Statement (.rdGicdIcpendrSpi word init) := fun _ h => rd_canonical _ _ _ _ (word_off_lt h (by decide))

theorem Canonical.wrGicdIcpendrSpi (word : Nat) (init : Nat) (data : Word) :
    Canonical.Statement (.wrGicdIcpendrSpi word init data) :=
  fun _ h => wr_canonical _ _ _ _ _ (word_off_lt h (by decide)) rfl

theorem Canonical.rdGicdIsactiver0 (init : Nat) :
    Canonical.Statement (.rdGicdIsactiver0 init) := fun _ _ => rd_canonical _ _ _ _ (by decide)

theorem Canonical.rdGicdIsactiverSpi (word : Nat) (init : Nat) :
    Canonical.Statement (.rdGicdIsactiverSpi word init) := fun _ h => rd_canonical _ _ _ _ (word_off_lt h (by decide))

theorem Canonical.rdGicdIcactiver0 (init : Nat) :
    Canonical.Statement (.rdGicdIcactiver0 init) := fun _ _ => rd_canonical _ _ _ _ (by decide)

theorem Canonical.wrGicdIcactiver0 (init : Nat) (data : Word) :
    Canonical.Statement (.wrGicdIcactiver0 init data) := fun _ _ => wr_canonical _ _ _ _ _ (by decide) rfl

theorem Canonical.rdGicdIcactiverSpi (word : Nat) (init : Nat) :
    Canonical.Statement (.rdGicdIcactiverSpi word init) := fun _ h => rd_canonical _ _ _ _ (word_off_lt h (by decide))

theorem Canonical.wrGicdIcactiverSpi (word : Nat) (init : Nat) (data : Word) :
    Canonical.Statement (.wrGicdIcactiverSpi word init data) :=
  fun _ h => wr_canonical _ _ _ _ _ (word_off_lt h (by decide)) rfl

theorem Canonical.rdGicdIpriorityrPriv (first : Nat) (n : Width) (init : Nat) :
    Canonical.Statement (.rdGicdIpriorityrPriv first n init) :=
  fun _ h => rd_canonical _ _ _ _ (byte_off_lt h (by decide))

theorem Canonical.wrGicdIpriorityrPriv (first : Nat) (n : Width) (init : Nat) (data : Word) :
    Canonical.Statement (.wrGicdIpriorityrPriv first n init data) := fun _ h => by
  have h := Bool.and_eq_true_iff.mp h
  exact wr_canonical _ _ _ _ _ (byte_off_lt h.1 (by decide)) (clip_of_dataOk h.2)

theorem Canonical.rdGicdIpriorityrSpi (first : Nat) (n : Width) (init : Nat) :
    Canonical.Statement (.rdGicdIpriorityrSpi first n init) :=
  fun _ h => rd_canonical _ _ _ _ (byte_off_lt h (by decide))

theorem Canonical.wrGicdIpriorityrSpi (first : Nat) (n : Width) (init : Nat) (data : Word) :
    Canonical.Statement (.wrGicdIpriorityrSpi first n init data) := fun _ h => by
  have h := Bool.and_eq_true_iff.mp h
  exact wr_canonical _ _ _ _ _ (byte_off_lt h.1 (by decide)) (clip_of_dataOk h.2)

theorem Canonical.rdGicdItargetsrPriv (first : Nat) (n : Width) (init : Nat) :
    Canonical.Statement (.rdGicdItargetsrPriv first n init) :=
  fun _ h => rd_canonical _ _ _ _ (byte_off_lt h (by decide))

theorem Canonical.rdGicdItargetsrSpi (first : Nat) (n : Width) (init : Nat) :
    Canonical.Statement (.rdGicdItargetsrSpi first n init) :=
  fun _ h => rd_canonical _ _ _ _ (byte_off_lt h (by decide))

theorem Canonical.wrGicdItargetsrSpi (first : Nat) (n : Width) (init : Nat) (data : Word) :
    Canonical.Statement (.wrGicdItargetsrSpi first n init data) := fun _ h => by
  have h := Bool.and_eq_true_iff.mp h
  exact wr_canonical _ _ _ _ _ (byte_off_lt h.1 (by decide)) (clip_of_dataOk h.2)

theorem Canonical.rdGicdIcfgr0 (init : Nat) :
    Canonical.Statement (.rdGicdIcfgr0 init) := fun _ _ => rd_canonical _ _ _ _ (by decide)

theorem Canonical.rdGicdIcfgr1 (init : Nat) :
    Canonical.Statement (.rdGicdIcfgr1 init) := fun _ _ => rd_canonical _ _ _ _ (by decide)

theorem Canonical.wrGicdIcfgr1 (init : Nat) (data : Word) :
    Canonical.Statement (.wrGicdIcfgr1 init data) := fun _ _ => wr_canonical _ _ _ _ _ (by decide) rfl

theorem Canonical.rdGicdIcfgrSpi (word : Nat) (init : Nat) :
    Canonical.Statement (.rdGicdIcfgrSpi word init) := fun _ h => rd_canonical _ _ _ _ (word_off_lt h (by decide))

theorem Canonical.wrGicdIcfgrSpi (word : Nat) (init : Nat) (data : Word) :
    Canonical.Statement (.wrGicdIcfgrSpi word init data) :=
  fun _ h => wr_canonical _ _ _ _ _ (word_off_lt h (by decide)) rfl

theorem Canonical.wrGicdSgir (init : Nat) (data : Word) :
    Canonical.Statement (.wrGicdSgir init data) := fun _ _ => wr_canonical _ _ _ _ _ (by decide) rfl

theorem Canonical.rdGicdCpendsgir (first : Nat) (n : Width) (init : Nat) :
    Canonical.Statement (.rdGicdCpendsgir first n init) := fun _ h => rd_canonical _ _ _ _ (byte_off_lt h (by decide))

theorem Canonical.wrGicdCpendsgir (first : Nat) (n : Width) (init : Nat) (data : Word) :
    Canonical.Statement (.wrGicdCpendsgir first n init data) := fun _ h => by
  have h := Bool.and_eq_true_iff.mp h
  exact wr_canonical _ _ _ _ _ (byte_off_lt h.1 (by decide)) (clip_of_dataOk h.2)

theorem Canonical.rdGicdSpendsgir (first : Nat) (n : Width) (init : Nat) :
    Canonical.Statement (.rdGicdSpendsgir first n init) := fun _ h => rd_canonical _ _ _ _ (byte_off_lt h (by decide))

theorem Canonical.wrGicdSpendsgir (first : Nat) (n : Width) (init : Nat) (data : Word) :
    Canonical.Statement (.wrGicdSpendsgir first n init data) := fun _ h => by
  have h := Bool.and_eq_true_iff.mp h
  exact wr_canonical _ _ _ _ _ (byte_off_lt h.1 (by decide)) (clip_of_dataOk h.2)

theorem Canonical.rdGiccCtlr (init : Nat) :
    Canonical.Statement (.rdGiccCtlr init) := fun _ _ => rd_canonical _ _ _ _ (by decide)

theorem Canonical.wrGiccCtlr (init : Nat) (data : Word) :
    Canonical.Statement (.wrGiccCtlr init data) := fun _ _ => wr_canonical _ _ _ _ _ (by decide) rfl

theorem Canonical.rdGiccPmr (init : Nat) :
    Canonical.Statement (.rdGiccPmr init) := fun _ _ => rd_canonical _ _ _ _ (by decide)

theorem Canonical.wrGiccPmr (init : Nat) (data : Word) :
    Canonical.Statement (.wrGiccPmr init data) := fun _ _ => wr_canonical _ _ _ _ _ (by decide) rfl

theorem Canonical.rdGiccBpr (init : Nat) :
    Canonical.Statement (.rdGiccBpr init) := fun _ _ => rd_canonical _ _ _ _ (by decide)

theorem Canonical.wrGiccBpr (init : Nat) (data : Word) :
    Canonical.Statement (.wrGiccBpr init data) := fun _ _ => wr_canonical _ _ _ _ _ (by decide) rfl

theorem Canonical.rdGiccIar (init : Nat) :
    Canonical.Statement (.rdGiccIar init) := fun _ _ => rd_canonical _ _ _ _ (by decide)

theorem Canonical.wrGiccEoir (init : Nat) (data : Word) :
    Canonical.Statement (.wrGiccEoir init data) := fun _ _ => wr_canonical _ _ _ _ _ (by decide) rfl

theorem Canonical.rdGiccRpr (init : Nat) :
    Canonical.Statement (.rdGiccRpr init) := fun _ _ => rd_canonical _ _ _ _ (by decide)

theorem Canonical.rdGiccHppir (init : Nat) :
    Canonical.Statement (.rdGiccHppir init) := fun _ _ => rd_canonical _ _ _ _ (by decide)

theorem Canonical.rdGiccAbpr (init : Nat) :
    Canonical.Statement (.rdGiccAbpr init) := fun _ _ => rd_canonical _ _ _ _ (by decide)

theorem Canonical.wrGiccAbpr (init : Nat) (data : Word) :
    Canonical.Statement (.wrGiccAbpr init data) := fun _ _ => wr_canonical _ _ _ _ _ (by decide) rfl

theorem Canonical.rdGicvCtlr (init : Nat) :
    Canonical.Statement (.rdGicvCtlr init) := fun _ _ => rd_canonical _ _ _ _ (by decide)

theorem Canonical.wrGicvCtlr (init : Nat) (data : Word) :
    Canonical.Statement (.wrGicvCtlr init data) := fun _ _ => wr_canonical _ _ _ _ _ (by decide) rfl

theorem Canonical.rdGicvPmr (init : Nat) :
    Canonical.Statement (.rdGicvPmr init) := fun _ _ => rd_canonical _ _ _ _ (by decide)

theorem Canonical.wrGicvPmr (init : Nat) (data : Word) :
    Canonical.Statement (.wrGicvPmr init data) := fun _ _ => wr_canonical _ _ _ _ _ (by decide) rfl

theorem Canonical.rdGicvBpr (init : Nat) :
    Canonical.Statement (.rdGicvBpr init) := fun _ _ => rd_canonical _ _ _ _ (by decide)

theorem Canonical.wrGicvBpr (init : Nat) (data : Word) :
    Canonical.Statement (.wrGicvBpr init data) := fun _ _ => wr_canonical _ _ _ _ _ (by decide) rfl

theorem Canonical.rdGicvIar (init : Nat) :
    Canonical.Statement (.rdGicvIar init) := fun _ _ => rd_canonical _ _ _ _ (by decide)

theorem Canonical.wrGicvEoir (init : Nat) (data : Word) :
    Canonical.Statement (.wrGicvEoir init data) := fun _ _ => wr_canonical _ _ _ _ _ (by decide) rfl

theorem Canonical.rdGicvRpr (init : Nat) :
    Canonical.Statement (.rdGicvRpr init) := fun _ _ => rd_canonical _ _ _ _ (by decide)

theorem Canonical.rdGicvHppir (init : Nat) :
    Canonical.Statement (.rdGicvHppir init) := fun _ _ => rd_canonical _ _ _ _ (by decide)

theorem Canonical.rdGicvAbpr (init : Nat) :
    Canonical.Statement (.rdGicvAbpr init) := fun _ _ => rd_canonical _ _ _ _ (by decide)

theorem Canonical.wrGicvAbpr (init : Nat) (data : Word) :
    Canonical.Statement (.wrGicvAbpr init data) := fun _ _ => wr_canonical _ _ _ _ _ (by decide) rfl

theorem Canonical.rdGichHcr (init : Nat) :
    Canonical.Statement (.rdGichHcr init) := fun _ _ => rd_canonical _ _ _ _ (by decide)

theorem Canonical.wrGichHcr (init : Nat) (data : Word) :
    Canonical.Statement (.wrGichHcr init data) := fun _ _ => wr_canonical _ _ _ _ _ (by decide) rfl

theorem Canonical.rdGichVtr (init : Nat) :
    Canonical.Statement (.rdGichVtr init) := fun _ _ => rd_canonical _ _ _ _ (by decide)

theorem Canonical.rdGichVmcr (init : Nat) :
    Canonical.Statement (.rdGichVmcr init) := fun _ _ => rd_canonical _ _ _ _ (by decide)

theorem Canonical.wrGichVmcr (init : Nat) (data : Word) :
    Canonical.Statement (.wrGichVmcr init data) := fun _ _ => wr_canonical _ _ _ _ _ (by decide) rfl

theorem Canonical.rdGichApr (init : Nat) :
    Canonical.Statement (.rdGichApr init) := fun _ _ => rd_canonical _ _ _ _ (by decide)

theorem Canonical.wrGichApr (init : Nat) (data : Word) :
    Canonical.Statement (.wrGichApr init data) := fun _ _ => wr_canonical _ _ _ _ _ (by decide) rfl

theorem Canonical.rdGichLr (i : LrIx) (init : Nat) :
    Canonical.Statement (.rdGichLr i init) := fun _ _ => rd_canonical _ _ _ _ (by omega)

theorem Canonical.wrGichLr (i : LrIx) (init : Nat) (data : Word) :
    Canonical.Statement (.wrGichLr i init data) := fun _ _ => wr_canonical _ _ _ _ _ (by omega) rfl

theorem Canonical.lineLevel (port : Port) (value : Bool) :
    Canonical.Statement (.lineLevel port value) := fun _ _ => rfl

theorem Canonical.lineEdge (port : Port) (value : Bool) :
    Canonical.Statement (.lineEdge port value) := fun _ _ => rfl

theorem Canonical.reset :
    Canonical.Statement (.reset) := fun _ _ => rfl

theorem Canonical.accessError (key : BitVec 16) (n : Width) (init : Nat) (data : Word) :
    Canonical.Statement (.accessError key n init data) := fun _ h => by
  have h := (Bool.and_eq_true_iff.mp h).2
  rw [beq_iff_eq] at h
  simp only [encode, Request.canonical, h]

end Sys2Proof.Laws
end

