-- ==== Sys2Proof/Tests/Slice0.lean ====
section
/-! SUPPORT. Tests: the smoke test of WellFormed, a decode test for every row of spec/opcode_table.json, at most two
one-step tests per instruction, and a witness for the hypotheses of every statement that has some. The expected values
are those of spec/95_test_vectors.md (V<n>, P<n>) or worked out by hand from the rule named. -/

namespace Sys2Proof.Tests

set_option Elab.async false

open Sys2Proof.Machine

/-! ## Small states -/

/-- A block with two CPUs and 16 SPIs, so that IDs 0..47 are implemented. -/
def small : Params :=
  { Params.standard with numCpu := 2, numSpi := 16, numCpu_pos := by decide, numCpu_le := by decide,
                         numSpi_le := by decide }

/-- The small block after reset. -/
def base : State := State.resetWith small

/-- The state with the five masks of one ID. -/
def masks (irq : Nat) (en pe ac lv sg : CpuMask) (s : State) : State :=
  { s with store := { s.store with
      enabled := s.store.enabled.setIfInBounds irq en
      pending := s.store.pending.setIfInBounds irq pe
      active := s.store.active.setIfInBounds irq ac
      level := s.store.level.setIfInBounds irq lv
      signaled := s.store.signaled.setIfInBounds irq sg } }

/-- The state with one ID (of 16 or more) edge-triggered. -/
def edge (irq : Nat) (s : State) : State :=
  { s with store := { s.store with trigger := s.store.trigger.setIfInBounds (irq - 16) .edge } }

/-- The state with CPU 0's interface and the distributor enabled, pmr[0] = 0xff, and a given stack and rpr. -/
def ready (stk : List Irq) (rpr : Prio) (s : State) : State :=
  { s with dctlr := 1#2, cpu := s.cpu.set 0 { CpuIf.reset with ctlr := 1#2, pmr := 0xff#8, stk := stk, rpr := rpr } }

/-- The state with a priority and the targets of one SPI. -/
def spi (irq : Nat) (p : Prio) (t : CpuMask) (s : State) : State :=
  { s with prioSpi := s.prioSpi.setIfInBounds (irq - 32) p, itargets := s.itargets.setIfInBounds (irq - 32) t }

/-- The state with the sources of an SGI on CPU 0. -/
def sources (i : Nat) (m : CpuMask) (s : State) : State :=
  { s with sgiSrc := s.sgiSrc.set 0 (s.sgiSrc[0].setIfInBounds i m) }

/-- The state with a given selection for CPU 0. -/
def selected (h : Option Irq) (v : Option LrIx) (s : State) : State :=
  { s with arb := s.arb.set 0 { ArbOut.reset with hppir := h, vhppir := v } }

/-- The state with CPU 0's virtual interface. -/
def virtual (v : VirtIf) (s : State) : State := { s with virt := s.virt.set 0 v }

/-- "V-ready" with vpmr 0xff, and two list registers (spec/95_test_vectors.md §V18). -/
def vready (e0 e1 : ListReg) (apr : Word) (rpr : Prio) : VirtIf :=
  { VirtIf.reset with hcr := 1#1, ctlr := 1#2, pmr := 0xff#8, apr := apr, rpr := rpr,
                      lr := #v[e0, e1, ListReg.reset, ListReg.reset] }

/-- A software list register. -/
def soft (p a : Bool) (prio : Prio) (vid : BitVec 10) : ListReg :=
  { ListReg.reset with pending := p, active := a, prio := prio, virtualId := vid }

/-- A hardware-backed list register. -/
def hard (p a : Bool) (prio : Prio) (vid pid : BitVec 10) : ListReg :=
  { ListReg.reset with pending := p, active := a, prio := prio, virtualId := vid, physicalId := pid, hw := true }

/-- The state after one step that performs a request (the same state if the step stops). -/
def after (s : State) (r : Request) : State :=
  match step (s.deliver r) with
  | .next t => t
  | _ => s

/-- The response of a 4-byte read. -/
def reads (s : State) (key : BitVec 16) (c : Nat) : Option Response := (after s (.bus key .w4 c 0#32)).out.resp

/-- The state after a 4-byte write. -/
def writes (s : State) (key : BitVec 16) (c : Nat) (data : Word) : State := after s (.bus key .w4 c data)

/-- The step goes on. -/
def goesOn {σ φ ρ : Type} : Host.Outcome σ φ ρ → Bool
  | .next _ => true
  | _ => false

theorem exists_of_goesOn {σ φ ρ : Type} {o : Host.Outcome σ φ ρ} (h : goesOn o = true) : ∃ t, o = .next t := by
  cases o with
  | next t => exact ⟨t, rfl⟩
  | _ => simp [goesOn] at h

/-- The response of a step that goes on. -/
def respOf : Host.Outcome State Fault Refusal → Option Response
  | .next t => t.out.resp
  | _ => none

theorem exists_of_respOf {o : Host.Outcome State Fault Refusal} {r : Response} (h : respOf o = some r) :
    ∃ t, o = .next t ∧ t.out.resp = some r := by
  cases o with
  | next t => exact ⟨t, rfl, h⟩
  | _ => simp [respOf] at h

/-! ## WellFormed: an ill-formed term for each check -/

theorem test_wf_accepts :
    (Instr.rdGicdIsenablerSpi 1 0).wf small = true ∧ (Instr.rdGicdIsenablerSpi 15 0).wf small = true ∧
    (Instr.wrGicdIpriorityrSpi 510 .w2 0 0xffff#32).wf small = true ∧ (Instr.lineEdge (.spi 15) true).wf small = true ∧
    (Instr.accessError 0x0008#16 .w4 0 0#32).wf small = true := by decide +kernel

theorem test_wf_wordOk :
    (Instr.rdGicdIsenablerSpi 0 0).wf small = false ∧ (Instr.wrGicdIcenablerSpi 16 0 0#32).wf small = false ∧
    (Instr.wrGicdIcfgrSpi 1 0 0#32).wf small = false ∧ (Instr.rdGicdIcfgrSpi 32 0).wf small = false := by decide +kernel

theorem test_wf_bytesOk :
    (Instr.rdGicdIpriorityrPriv 32 .w1 0).wf small = false ∧ (Instr.rdGicdIpriorityrSpi 31 .w1 0).wf small = false ∧
    (Instr.rdGicdItargetsrSpi 512 .w1 0).wf small = false ∧ (Instr.rdGicdCpendsgir 16 .w4 0).wf small = false ∧
    (Instr.rdGicdSpendsgir 1 .w2 0).wf small = false ∧ (Instr.rdGicdItargetsrPriv 2 .w4 0).wf small = false := by
  decide +kernel

theorem test_wf_dataOk :
    (Instr.wrGicdIpriorityrPriv 0 .w1 0 0x100#32).wf small = false ∧
    (Instr.wrGicdItargetsrSpi 32 .w2 0 0x10000#32).wf small = false ∧
    (Instr.wrGicdSpendsgir 0 .w1 0 0x100#32).wf small = false := by decide +kernel

theorem test_wf_port :
    (Instr.lineLevel (.spi 16) true).wf small = false ∧ (Instr.lineEdge (.ppi 2 0) true).wf small = false := by
  decide +kernel

theorem test_wf_accessError :
    (Instr.accessError 0x0000#16 .w4 0 0#32).wf small = false ∧
    (Instr.accessError 0x0008#16 .w4 0 1#32).wf small = false ∧
    (Instr.accessError 0x2008#16 .w1 0 0x100#32).wf small = false := by decide +kernel

/-! ## Decoding: a key written out from R110 and the maps R120 to R123 for every row -/

theorem test_decode_gicd_ctlr_typer :
    decodeBus 0b00_0_0000000000000#16 .w4 1 0#32 = .rdGicdCtlr 1 ∧
    decodeBus 0b00_1_0000000000000#16 .w4 1 7#32 = .wrGicdCtlr 1 7#32 ∧
    decodeBus 0b00_0_0000000000100#16 .w4 1 0#32 = .rdGicdTyper 1 := by decide +kernel

theorem test_decode_gicd_enable :
    decodeBus 0b00_0_0000100000000#16 .w4 1 0#32 = .rdGicdIsenabler0 1 ∧
    decodeBus 0b00_1_0000100000000#16 .w4 1 7#32 = .wrGicdIsenabler0 1 7#32 ∧
    decodeBus 0b00_0_0000100111100#16 .w4 1 0#32 = .rdGicdIsenablerSpi 15 1 ∧
    decodeBus 0b00_1_0000100000100#16 .w4 1 7#32 = .wrGicdIsenablerSpi 1 1 7#32 ∧
    decodeBus 0b00_0_0000110000000#16 .w4 1 0#32 = .rdGicdIcenabler0 1 ∧
    decodeBus 0b00_1_0000110000000#16 .w4 1 7#32 = .wrGicdIcenabler0 1 7#32 ∧
    decodeBus 0b00_0_0000110000100#16 .w4 1 0#32 = .rdGicdIcenablerSpi 1 1 ∧
    decodeBus 0b00_1_0000110111100#16 .w4 1 7#32 = .wrGicdIcenablerSpi 15 1 7#32 := by decide +kernel

theorem test_decode_gicd_pending :
    decodeBus 0b00_0_0001000000000#16 .w4 1 0#32 = .rdGicdIspendr0 1 ∧
    decodeBus 0b00_1_0001000000000#16 .w4 1 7#32 = .wrGicdIspendr0 1 7#32 ∧
    decodeBus 0b00_0_0001000111100#16 .w4 1 0#32 = .rdGicdIspendrSpi 15 1 ∧
    decodeBus 0b00_1_0001000000100#16 .w4 1 7#32 = .wrGicdIspendrSpi 1 1 7#32 ∧
    decodeBus 0b00_0_0001010000000#16 .w4 1 0#32 = .rdGicdIcpendr0 1 ∧
    decodeBus 0b00_1_0001010000000#16 .w4 1 7#32 = .wrGicdIcpendr0 1 7#32 ∧
    decodeBus 0b00_0_0001010000100#16 .w4 1 0#32 = .rdGicdIcpendrSpi 1 1 ∧
    decodeBus 0b00_1_0001010111100#16 .w4 1 7#32 = .wrGicdIcpendrSpi 15 1 7#32 := by decide +kernel

theorem test_decode_gicd_active :
    decodeBus 0b00_0_0001100000000#16 .w4 1 0#32 = .rdGicdIsactiver0 1 ∧
    decodeBus 0b00_0_0001100000100#16 .w4 1 0#32 = .rdGicdIsactiverSpi 1 1 ∧
    decodeBus 0b00_0_0001110000000#16 .w4 1 0#32 = .rdGicdIcactiver0 1 ∧
    decodeBus 0b00_1_0001110000000#16 .w4 1 7#32 = .wrGicdIcactiver0 1 7#32 ∧
    decodeBus 0b00_0_0001110111100#16 .w4 1 0#32 = .rdGicdIcactiverSpi 15 1 ∧
    decodeBus 0b00_1_0001110000100#16 .w4 1 7#32 = .wrGicdIcactiverSpi 1 1 7#32 := by decide +kernel

theorem test_decode_gicd_priority :
    decodeBus 0b00_0_0010000011111#16 .w1 1 0#32 = .rdGicdIpriorityrPriv 31 .w1 1 ∧
    decodeBus 0b00_1_0010000010000#16 .w4 1 7#32 = .wrGicdIpriorityrPriv 16 .w4 1 7#32 ∧
    decodeBus 0b00_0_0010111111110#16 .w2 1 0#32 = .rdGicdIpriorityrSpi 510 .w2 1 ∧
    decodeBus 0b00_1_0010000100000#16 .w1 1 0x1234#32 = .wrGicdIpriorityrSpi 32 .w1 1 0x34#32 := by decide +kernel

theorem test_decode_gicd_targets :
    decodeBus 0b00_0_0100000011111#16 .w1 1 0#32 = .rdGicdItargetsrPriv 31 .w1 1 ∧
    decodeBus 0b00_0_0100000100000#16 .w4 1 0#32 = .rdGicdItargetsrSpi 32 .w4 1 ∧
    decodeBus 0b00_1_0100111111111#16 .w1 1 3#32 = .wrGicdItargetsrSpi 511 .w1 1 3#32 := by decide +kernel

theorem test_decode_gicd_config :
    decodeBus 0b00_0_0110000000000#16 .w4 1 0#32 = .rdGicdIcfgr0 1 ∧
    decodeBus 0b00_0_0110000000100#16 .w4 1 0#32 = .rdGicdIcfgr1 1 ∧
    decodeBus 0b00_1_0110000000100#16 .w4 1 8#32 = .wrGicdIcfgr1 1 8#32 ∧
    decodeBus 0b00_0_0110001111100#16 .w4 1 0#32 = .rdGicdIcfgrSpi 31 1 ∧
    decodeBus 0b00_1_0110000001000#16 .w4 1 2#32 = .wrGicdIcfgrSpi 2 1 2#32 := by decide +kernel

theorem test_decode_gicd_sgi :
    decodeBus 0b00_1_0111100000000#16 .w4 1 5#32 = .wrGicdSgir 1 5#32 ∧
    decodeBus 0b00_0_0111100010000#16 .w4 1 0#32 = .rdGicdCpendsgir 0 .w4 1 ∧
    decodeBus 0b00_1_0111100010011#16 .w1 1 2#32 = .wrGicdCpendsgir 3 .w1 1 2#32 ∧
    decodeBus 0b00_0_0111100101110#16 .w2 1 0#32 = .rdGicdSpendsgir 14 .w2 1 ∧
    decodeBus 0b00_1_0111100100011#16 .w1 1 6#32 = .wrGicdSpendsgir 3 .w1 1 6#32 := by decide +kernel

theorem test_decode_gicc :
    decodeBus 0b01_0_0000000000000#16 .w4 1 0#32 = .rdGiccCtlr 1 ∧
    decodeBus 0b01_1_0000000000000#16 .w4 1 7#32 = .wrGiccCtlr 1 7#32 ∧
    decodeBus 0b01_0_0000000000100#16 .w4 1 0#32 = .rdGiccPmr 1 ∧
    decodeBus 0b01_1_0000000000100#16 .w4 1 7#32 = .wrGiccPmr 1 7#32 ∧
    decodeBus 0b01_0_0000000001000#16 .w4 1 0#32 = .rdGiccBpr 1 ∧
    decodeBus 0b01_1_0000000001000#16 .w4 1 7#32 = .wrGiccBpr 1 7#32 ∧
    decodeBus 0b01_0_0000000001100#16 .w4 1 0#32 = .rdGiccIar 1 ∧
    decodeBus 0b01_1_0000000010000#16 .w4 1 7#32 = .wrGiccEoir 1 7#32 ∧
    decodeBus 0b01_0_0000000010100#16 .w4 1 0#32 = .rdGiccRpr 1 ∧
    decodeBus 0b01_0_0000000011000#16 .w4 1 0#32 = .rdGiccHppir 1 ∧
    decodeBus 0b01_0_0000000011100#16 .w4 1 0#32 = .rdGiccAbpr 1 ∧
    decodeBus 0b01_1_0000000011100#16 .w4 1 7#32 = .wrGiccAbpr 1 7#32 := by decide +kernel

theorem test_decode_gicv :
    decodeBus 0b11_0_0000000000000#16 .w4 1 0#32 = .rdGicvCtlr 1 ∧
    decodeBus 0b11_1_0000000000000#16 .w4 1 7#32 = .wrGicvCtlr 1 7#32 ∧
    decodeBus 0b11_0_0000000000100#16 .w4 1 0#32 = .rdGicvPmr 1 ∧
    decodeBus 0b11_1_0000000000100#16 .w4 1 7#32 = .wrGicvPmr 1 7#32 ∧
    decodeBus 0b11_0_0000000001000#16 .w4 1 0#32 = .rdGicvBpr 1 ∧
    decodeBus 0b11_1_0000000001000#16 .w4 1 7#32 = .wrGicvBpr 1 7#32 ∧
    decodeBus 0b11_0_0000000001100#16 .w4 1 0#32 = .rdGicvIar 1 ∧
    decodeBus 0b11_1_0000000010000#16 .w4 1 7#32 = .wrGicvEoir 1 7#32 ∧
    decodeBus 0b11_0_0000000010100#16 .w4 1 0#32 = .rdGicvRpr 1 ∧
    decodeBus 0b11_0_0000000011000#16 .w4 1 0#32 = .rdGicvHppir 1 ∧
    decodeBus 0b11_0_0000000011100#16 .w4 1 0#32 = .rdGicvAbpr 1 ∧
    decodeBus 0b11_1_0000000011100#16 .w4 1 7#32 = .wrGicvAbpr 1 7#32 := by decide +kernel

theorem test_decode_gich :
    decodeBus 0b10_0_0000000000000#16 .w4 1 0#32 = .rdGichHcr 1 ∧
    decodeBus 0b10_1_0000000000000#16 .w4 1 7#32 = .wrGichHcr 1 7#32 ∧
    decodeBus 0b10_0_0000000000100#16 .w4 1 0#32 = .rdGichVtr 1 ∧
    decodeBus 0b10_0_0000000001000#16 .w4 1 0#32 = .rdGichVmcr 1 ∧
    decodeBus 0b10_1_0000000001000#16 .w4 1 7#32 = .wrGichVmcr 1 7#32 ∧
    decodeBus 0b10_0_0000011110000#16 .w4 1 0#32 = .rdGichApr 1 ∧
    decodeBus 0b10_1_0000011110000#16 .w4 1 7#32 = .wrGichApr 1 7#32 ∧
    decodeBus 0b10_0_0000100001100#16 .w4 1 0#32 = .rdGichLr 3 1 ∧
    decodeBus 0b10_1_0000100000100#16 .w4 1 7#32 = .wrGichLr 1 1 7#32 := by decide +kernel

/-- LINE and RESET (R111, R170): the trigger mode selects the row. -/
theorem test_decode_line_reset :
    decode small (fun _ => .level) (.line (.spi 8) true) = .ok (.lineLevel (.spi 8) true) ∧
    decode small (fun irq => if irq = 27 then .edge else .level) (.line (.ppi 1 11) false) =
      .ok (.lineEdge (.ppi 1 11) false) ∧
    decode small (fun _ => .level) (.line (.spi 16) true) = .error (.noSuchInput (.spi 16)) ∧
    decode small (fun _ => .level) .reset = .ok .reset := by decide +kernel

/-- The catch-all, by each of its five causes (V21.1, V21.3, V21.4, V9.11, V7.6). -/
theorem test_decode_accessError :
    decodeBus 0x0008#16 .w4 0 0#32 = .accessError 0x0008#16 .w4 0 0#32 ∧
    decodeBus 0x600C#16 .w4 0 0#32 = .accessError 0x600C#16 .w4 0 0#32 ∧
    decodeBus 0x4010#16 .w4 0 0#32 = .accessError 0x4010#16 .w4 0 0#32 ∧
    decodeBus 0x2F00#16 .w1 0 5#32 = .accessError 0x2F00#16 .w1 0 5#32 ∧
    decodeBus 0x2421#16 .w2 0 0x1234#32 = .accessError 0x2421#16 .w2 0 0x1234#32 ∧
    accessErrorCause 0x0008#16 .w4 = some .unmapped ∧ accessErrorCause 0x600C#16 .w4 = some .writeRo ∧
    accessErrorCause 0x4010#16 .w4 = some .readWo ∧ accessErrorCause 0x2F00#16 .w1 = some .width ∧
    accessErrorCause 0x2421#16 .w2 = some .misaligned := by decide +kernel

/-- Bare table words. -/
theorem test_decodeTableWord :
    decodeTableWord 16 0x2104 = some (.wrGicdIsenablerSpi 1 0 0#32) ∧ decodeTableWord 16 0x400C = some (.rdGiccIar 0) ∧
    decodeTableWord 16 0x0423 = some (.rdGicdIpriorityrSpi 35 .w1 0) ∧ decodeTableWord 32 0x400C = none := by
  decide +kernel

/-! ## One step: the distributor -/

/-- V3.1, V3.6: the distributor enable keeps two bits, and disabling it withdraws the selection. -/
theorem test_gicd_ctlr :
    (writes base 0x2000#16 0 0xffffffff#32).dctlr = 3#2 ∧
    reads { base with dctlr := 3#2 } 0x0000#16 1 = some (.okData 3#32) ∧
    ((writes (selected (some 32) none (ready [] 0xff#8 (spi 32 0#8 1#8 (masks 32 0xff#8 0xff#8 0#8 0#8 0#8 base))))
      0x2000#16 0 0#32).arbOut 0).hppir = none := by decide +kernel

/-- R130 by hand: NIMPL = 48 gives ITLinesNumber 1, two CPUs give CPUNumber 1; V3.2 for the defaults. -/
theorem test_gicd_typer :
    reads base 0x0004#16 0 = some (.okData 0x21#32) ∧ reads State.reset 0x0004#16 5 = some (.okData 0xef#32) := by
  decide +kernel

/-- V4.1, V4.2: the level catch-up of an enable. -/
theorem test_isenabler0_write :
    maskAt (writes (masks 20 0#8 0#8 0#8 2#8 0#8 base) 0x2100#16 1 0x100000#32).store.pending 20 = 2#8 ∧
    maskAt (writes (edge 20 (masks 20 0#8 0#8 0#8 2#8 0#8 base)) 0x2100#16 1 0x100000#32).store.pending 20 = 0#8 := by
  decide +kernel

/-- V4.5, V4.6: banked reads of ISENABLER and ICENABLER. -/
theorem test_enabler0_read :
    reads (masks 20 2#8 0#8 0#8 0#8 0#8 base) 0x0100#16 1 = some (.okData 0x100000#32) ∧
    reads (masks 20 2#8 0#8 0#8 0#8 0#8 base) 0x0180#16 1 = some (.okData 0x100000#32) ∧
    reads (masks 20 2#8 0#8 0#8 0#8 0#8 base) 0x0100#16 0 = some (.okData 0#32) := by decide +kernel

/-- V4.7, V4.8: an SPI enable is for every CPU, and an unimplemented ID stays 0. -/
theorem test_isenabler_spi_write :
    maskAt (writes base 0x2104#16 1 0x80000001#32).store.enabled 32 = 0xff#8 ∧
    maskAt (writes base 0x2104#16 1 0x80000001#32).store.enabled 63 = 0#8 := by decide +kernel

/-- R203, by hand. -/
theorem test_icenabler_write :
    maskAt (writes (masks 20 3#8 0#8 0#8 0#8 0#8 base) 0x2180#16 1 0x100000#32).store.enabled 20 = 1#8 ∧
    maskAt (writes (masks 33 0xff#8 0xff#8 0#8 0#8 0#8 base) 0x2184#16 1 0x2#32).store.enabled 33 = 0#8 := by
  decide +kernel

/-- R202, R203: the reads of the SPI words. -/
theorem test_enabler_spi_read :
    reads (masks 47 0xff#8 0#8 0#8 0#8 0#8 base) 0x0104#16 1 = some (.okData 0x8000#32) ∧
    reads (masks 47 0xff#8 0#8 0#8 0#8 0#8 base) 0x0184#16 0 = some (.okData 0x8000#32) := by decide +kernel

/-- V5.1, V5.2: SPI pending writes; V5.3, V5.7 shape: word 0 spares SGIs and banks PPIs. -/
theorem test_ispendr_write :
    maskAt (writes base 0x2204#16 0 1#32).store.pending 32 = 0xff#8 ∧
    maskAt (writes base 0x2200#16 1 0x1ffff#32).store.pending 16 = 2#8 ∧
    maskAt (writes base 0x2200#16 1 0x1ffff#32).store.pending 15 = 0#8 := by decide +kernel

theorem test_icpendr_write :
    maskAt (writes (masks 32 0#8 0xff#8 0#8 0xff#8 0#8 base) 0x2284#16 1 1#32).store.pending 32 = 0#8 ∧
    maskAt (writes (masks 3 0#8 2#8 0#8 0#8 0#8 base) 0x2280#16 1 8#32).store.pending 3 = 2#8 ∧
    maskAt (writes (masks 31 0#8 3#8 0#8 0#8 0#8 base) 0x2280#16 1 0x80000000#32).store.pending 31 = 1#8 := by
  decide +kernel

/-- V5.4, and R211's reads. -/
theorem test_pendr_read :
    reads (masks 3 0#8 2#8 0#8 0#8 0#8 base) 0x0200#16 1 = some (.okData 8#32) ∧
    reads (masks 3 0#8 2#8 0#8 0#8 0#8 base) 0x0280#16 0 = some (.okData 0#32) ∧
    reads (masks 32 0#8 0xff#8 0#8 0#8 0#8 base) 0x0204#16 1 = some (.okData 1#32) ∧
    reads (masks 32 0#8 0xff#8 0#8 0#8 0#8 base) 0x0284#16 0 = some (.okData 1#32) := by decide +kernel

/-- V6.1, V6.7, and the banked word 0. -/
theorem test_activer_read :
    reads (masks 33 0#8 0#8 0xff#8 0#8 0#8 base) 0x0304#16 1 = some (.okData 2#32) ∧
    reads (masks 33 0#8 0#8 0xff#8 0#8 0#8 base) 0x0384#16 0 = some (.okData 2#32) ∧
    reads (masks 16 0#8 0#8 2#8 0#8 0#8 base) 0x0300#16 1 = some (.okData 0x10000#32) ∧
    reads (masks 16 0#8 0#8 2#8 0#8 0#8 base) 0x0380#16 0 = some (.okData 0#32) := by decide +kernel

/-- V6.3: an SPI clear re-arbitrates. -/
theorem test_icactiver_spi_write :
    ((writes (ready [33] 0xff#8 (spi 33 0x10#8 1#8 (masks 33 0xff#8 0xff#8 0xff#8 0#8 0xff#8 base))) 0x2384#16 0
      2#32).arbOut 0).hppir = some 33 := by decide +kernel

/-- V6.4, V6.6: a PPI clear re-arbitrates only under ICACTIVER_PPI_UPDATES. -/
theorem test_icactiver0_write :
    maskAt (writes (ready [] 0xff#8 (masks 20 1#8 1#8 1#8 0#8 0#8 base)) 0x2380#16 0 0x100000#32).store.active 20 =
      0#8 ∧
    ((writes (ready [] 0xff#8 (masks 20 1#8 1#8 1#8 0#8 0#8 base)) 0x2380#16 0 0x100000#32).arbOut 0).hppir = none ∧
    ((writes (ready [] 0xff#8 (masks 20 1#8 1#8 1#8 0#8 0#8
      (State.resetWith { small with icactiverPpiUpdates := true }))) 0x2380#16 0 0x100000#32).arbOut 0).hppir =
      some 20 := by decide +kernel

/-- V7.1 for CPU 1: four bytes, lowest first, banked. -/
theorem test_ipriorityr_priv :
    (writes base 0x2410#16 1 0x80604020#32).prio 16 1 = 0x20#8 ∧
    (writes base 0x2410#16 1 0x80604020#32).prio 19 1 = 0x80#8 ∧
    (writes base 0x2410#16 1 0x80604020#32).prio 16 0 = 0#8 ∧
    (after (writes base 0x2410#16 1 0x80604020#32) (.bus 0x0412#16 .w2 1 0#32)).out.resp =
      some (.okData 0x8060#32) := by decide +kernel

/-- V7.4, V7.5, V7.7. -/
theorem test_ipriorityr_spi :
    (after base (.bus 0x2422#16 .w2 0 0x1234#32)).prio 34 1 = 0x34#8 ∧
    (after base (.bus 0x2422#16 .w2 0 0x1234#32)).prio 35 0 = 0x12#8 ∧
    reads (spi 34 0x34#8 0#8 base) 0x0420#16 1 = some (.okData 0x340000#32) ∧
    (after base (.bus 0x2430#16 .w1 0 0x55#32)).prio 48 0 = 0#8 := by decide +kernel

/-- V8.1, V8.2 for CPU 1. -/
theorem test_itargetsr_priv :
    reads base 0x0800#16 1 = some (.okData 0x02020202#32) ∧
    (after base (.bus 0x081F#16 .w1 1 0#32)).out.resp = some (.okData 2#32) := by decide +kernel

/-- V8.4, V8.6: all eight target bits are kept. -/
theorem test_itargetsr_spi :
    (after base (.bus 0x2820#16 .w1 0 0xf3#32)).targets 32 = 0xf3#8 ∧
    reads (spi 33 0#8 0xf0#8 base) 0x0820#16 0 = some (.okData 0xf000#32) := by decide +kernel

/-- V10.1, V10.2, V10.7. -/
theorem test_icfgr_read :
    reads base 0x0C00#16 0 = some (.okData 0xAAAAAAAA#32) ∧ reads base 0x0C04#16 0 = some (.okData 0#32) ∧
    reads (edge 17 base) 0x0C04#16 1 = some (.okData 8#32) ∧ reads (edge 32 base) 0x0C08#16 0 = some (.okData 2#32) := by
  decide +kernel

/-- V10.4, V10.5, V10.7: 0b10 is EDGE, 0b11 is LEVEL. -/
theorem test_icfgr_write :
    (writes base 0x2C08#16 0 2#32).store.triggerOf 32 = .edge ∧
    (writes (edge 32 base) 0x2C08#16 0 3#32).store.triggerOf 32 = .level ∧
    (writes base 0x2C04#16 1 8#32).store.triggerOf 17 = .edge ∧
    (writes base 0x2C04#16 1 8#32).store.triggerOf 16 = .level := by decide +kernel

/-- V9.1 with two CPUs: all but self; V9.2: the list; V9.4: filter 3 is ignored. -/
theorem test_sgir :
    (writes base 0x2F00#16 1 0x01000005#32).sgiSources 0 5 = 2#8 ∧
    maskAt (writes base 0x2F00#16 1 0x01000005#32).store.pending 5 = 1#8 ∧
    maskAt (writes base 0x2F00#16 0 0x00FF0007#32).store.pending 7 = 3#8 ∧
    (writes base 0x2F00#16 0 0x03FF0001#32).out = ⟨some .ok, [.unrecognizedSgiFilter]⟩ := by decide +kernel

/-- V9.3 for CPU 1: only self. -/
theorem test_sgir_self :
    (writes base 0x2F00#16 1 0x0200000F#32).sgiSources 1 15 = 2#8 ∧
    maskAt (writes base 0x2F00#16 1 0x0200000F#32).store.pending 15 = 2#8 := by decide +kernel

/-- V11.1, V11.3: the pending bit follows the sources. -/
theorem test_spendsgir_write :
    (after base (.bus 0x2F23#16 .w1 0 6#32)).sgiSources 0 3 = 6#8 ∧
    maskAt (after base (.bus 0x2F23#16 .w1 0 6#32)).store.pending 3 = 1#8 := by decide +kernel

theorem test_cpendsgir_write :
    maskAt (after (sources 3 6#8 (masks 3 0#8 1#8 0#8 0#8 0#8 base)) (.bus 0x2F13#16 .w1 0 2#32)).store.pending 3 =
      1#8 ∧
    (after (sources 3 6#8 (masks 3 0#8 1#8 0#8 0#8 0#8 base)) (.bus 0x2F13#16 .w1 0 2#32)).sgiSources 0 3 = 4#8 ∧
    maskAt (after (sources 3 6#8 (masks 3 0#8 1#8 0#8 0#8 0#8 base)) (.bus 0x2F13#16 .w1 0 6#32)).store.pending 3 =
      0#8 := by decide +kernel

/-- V11.4, V11.5. -/
theorem test_pendsgir_read :
    reads (sources 3 6#8 base) 0x0F10#16 0 = some (.okData 0x06000000#32) ∧
    reads (sources 3 6#8 base) 0x0F20#16 0 = some (.okData 0x06000000#32) ∧
    reads (sources 3 6#8 base) 0x0F20#16 1 = some (.okData 0#32) := by decide +kernel

/-! ## One step: the CPU interface -/

/-- V12.1 to V12.5. -/
theorem test_gicc_writes :
    ((writes base 0x6000#16 0 0xffffffff#32).cpuIf 0).ctlr = 3#2 ∧ ((writes base 0x6004#16 0 0x1f0#32).cpuIf 0).pmr = 0xf0#8 ∧
    ((writes base 0x6008#16 0 0xff#32).cpuIf 0).bpr = 7#3 ∧ ((writes base 0x601C#16 1 0xfd#32).cpuIf 1).abpr = 5#3 ∧
    ((writes base 0x6004#16 1 0x80#32).cpuIf 0).pmr = 0#8 := by decide +kernel

/-- V12.4, V15.1. -/
theorem test_gicc_reads :
    reads (ready [] 0xff#8 base) 0x4000#16 0 = some (.okData 1#32) ∧
    reads (ready [] 0xff#8 base) 0x4004#16 0 = some (.okData 0xff#32) ∧
    reads base 0x4008#16 1 = some (.okData 2#32) ∧ reads base 0x401C#16 1 = some (.okData 3#32) ∧
    reads base 0x4014#16 0 = some (.okData 0xff#32) := by decide +kernel

/-- V15.1, V13.4, V15.2. -/
theorem test_gicc_hppir :
    reads base 0x4018#16 0 = some (.okData 0x3ff#32) ∧
    reads (selected (some 33) none base) 0x4018#16 0 = some (.okData 0x21#32) ∧
    reads (selected (some 3) none (sources 3 4#8 base)) 0x4018#16 0 = some (.okData 0x803#32) := by decide +kernel

/-- V13.2 with SPI 40. -/
theorem test_iar_spi :
    let t := after (selected (some 40) none (ready [] 0xff#8 (spi 40 0x80#8 1#8
      (masks 40 0xff#8 0xff#8 0#8 0xff#8 0#8 base)))) (.bus 0x400C#16 .w4 0 0#32)
    t.out.resp = some (.okData 0x28#32) ∧ maskAt t.store.pending 40 = 0#8 ∧ maskAt t.store.active 40 = 0xff#8 ∧
      maskAt t.store.signaled 40 = 0xff#8 ∧ (t.cpuIf 0).stk = [40] ∧ (t.cpuIf 0).rpr = 0x80#8 ∧
      t.arbOut 0 = ArbOut.reset := by decide +kernel

/-- V13.7: one source is consumed, and the SGI stays pending. -/
theorem test_iar_sgi :
    let t := after (selected (some 3) none (ready [] 0xff#8 (sources 3 6#8 (masks 3 1#8 1#8 0#8 0#8 0#8 base))))
      (.bus 0x400C#16 .w4 0 0#32)
    t.out.resp = some (.okData 0x403#32) ∧ t.sgiSources 0 3 = 4#8 ∧ maskAt t.store.pending 3 = 1#8 ∧
      maskAt t.store.active 3 = 1#8 ∧ (t.arbOut 0).hppir = none := by decide +kernel

/-- V14.1: the line is still high, so the interrupt is pending again. -/
theorem test_eoir_in_order :
    let t := writes (ready [40] 0x80#8 (spi 40 0x80#8 1#8 (masks 40 0xff#8 0#8 0xff#8 0xff#8 0xff#8 base)))
      0x6010#16 0 0x28#32
    (t.cpuIf 0).stk = [] ∧ (t.cpuIf 0).rpr = 0xff#8 ∧ maskAt t.store.active 40 = 0#8 ∧
      maskAt t.store.signaled 40 = 0#8 ∧ maskAt t.store.pending 40 = 0xff#8 ∧ (t.arbOut 0).hppir = some 40 ∧
      t.irqOut 0 = true := by decide +kernel

/-- V14.3: out of order; V14.6: not on the stack. -/
theorem test_eoir_out_of_order :
    let s := ready [34, 33] 0x40#8 (masks 33 0#8 0#8 0xff#8 0#8 0xff#8 (masks 34 0#8 0#8 0xff#8 0#8 0xff#8 base))
    ((writes s 0x6010#16 0 33#32).cpuIf 0).stk = [34] ∧ ((writes s 0x6010#16 0 33#32).cpuIf 0).rpr = 0x40#8 ∧
      maskAt (writes s 0x6010#16 0 33#32).store.active 33 = 0#8 ∧
      maskAt (writes s 0x6010#16 0 33#32).store.active 34 = 0xff#8 ∧
      (writes s 0x6010#16 0 41#32).out = ⟨some .ok, [.eoiNotOnStack]⟩ := by decide +kernel

/-! ## One step: the virtual interface control -/

/-- V16.14: turning the virtual interface on re-arbitrates. -/
theorem test_gich_hcr :
    let t := writes (virtual { vready (soft true false 0#8 5#10) ListReg.reset 0#32 0xff#8 with hcr := 0#1 } base)
      0xA000#16 0 1#32
    (t.virtIf 0).hcr = 1#1 ∧ (t.arbOut 0).vhppir = some 0 ∧ t.virqOut 0 = true ∧
      reads t 0x8000#16 0 = some (.okData 1#32) := by decide +kernel

/-- V16.6. -/
theorem test_gich_vtr : reads base 0x8004#16 1 = some (.okData 3#32) := by decide +kernel

/-- V16.9, V16.10, V16.11. -/
theorem test_gich_vmcr :
    reads base 0x8008#16 0 = some (.okData 0x004C0000#32) ∧
    reads (virtual { VirtIf.reset with pmr := 0xf7#8 } base) 0x8008#16 0 = some (.okData 0xF04C0000#32) ∧
    ((writes base 0xA008#16 0 0xffffffff#32).virtIf 0) =
      { VirtIf.reset with pmr := 0xf8#8, bpr := 7#3, abpr := 7#3, ctlr := 3#2 } := by decide +kernel

/-- V16.12: both APR_SELECT values. -/
theorem test_gich_apr :
    ((writes base 0xA0F0#16 0 0x10100#32).virtIf 0).rpr = 0x80#8 ∧
    ((writes (State.resetWith { small with aprSelect := .lsb }) 0xA0F0#16 0 0x10100#32).virtIf 0).rpr = 0x40#8 ∧
    reads (virtual { VirtIf.reset with apr := 0x10100#32 } base) 0x80F0#16 0 = some (.okData 0x10100#32) := by
  decide +kernel

/-- V16.3, V16.4. -/
theorem test_gich_lr_write :
    ((writes base 0xA104#16 0 0x9400A028#32).virtIf 0).listReg 1 =
      { hard true false 0x40#8 0x28#10 40#10 with raw := 0x9400A028#32 } ∧
    ((writes base 0xA108#16 0 0x10000C05#32).virtIf 0).listReg 2 =
      { soft true false 0#8 5#10 with cpuId := 3#3, raw := 0x10000C05#32 } := by decide +kernel

/-- V16.2: a read merges the live bits. -/
theorem test_gich_lr_read :
    reads (virtual (vready { soft false true 0xA0#8 0x25#10 with raw := 0x1A000025#32 } ListReg.reset 0#32 0xff#8) base)
      0x8100#16 0 = some (.okData 0x2A000025#32) := by decide +kernel

/-! ## One step: the virtual CPU interface -/

theorem test_gicv_writes :
    ((writes base 0xE000#16 0 0xffffffff#32).virtIf 0).ctlr = 3#2 ∧ ((writes base 0xE004#16 0 0x1f7#32).virtIf 0).pmr = 0xf7#8 ∧
    ((writes base 0xE008#16 1 0xff#32).virtIf 1).bpr = 7#3 ∧ ((writes base 0xE01C#16 1 0xfd#32).virtIf 1).abpr = 5#3 ∧
    ((writes base 0xE004#16 1 0x80#32).virtIf 0).pmr = 0#8 := by decide +kernel

/-- V18.9 and the reset values. -/
theorem test_gicv_reads :
    reads (virtual (vready ListReg.reset ListReg.reset 0x100000#32 0xA0#8) base) 0xC014#16 0 = some (.okData 0xA0#32) ∧
    reads (virtual (vready ListReg.reset ListReg.reset 0#32 0xff#8) base) 0xC000#16 0 = some (.okData 1#32) ∧
    reads (virtual (vready ListReg.reset ListReg.reset 0#32 0xff#8) base) 0xC004#16 0 = some (.okData 0xff#32) ∧
    reads base 0xC008#16 1 = some (.okData 2#32) ∧ reads base 0xC01C#16 1 = some (.okData 3#32) := by decide +kernel

/-- V18.2: a virtual SGI carries its CPU ID; V18.6's HPPIR; no selection reads 1023. -/
theorem test_gicv_hppir :
    reads (selected none (some 0) (virtual (vready { soft true false 0#8 5#10 with cpuId := 3#3 } ListReg.reset 0#32
      0xff#8) base)) 0xC018#16 0 = some (.okData 0xC05#32) ∧
    reads (selected none (some 1) (virtual (vready ListReg.reset (soft true false 0xA0#8 0x26#10) 0#32 0xA0#8) base))
      0xC018#16 0 = some (.okData 0x26#32) ∧
    reads base 0xC018#16 0 = some (.okData 0x3ff#32) := by decide +kernel

/-- V18.1. -/
theorem test_gicv_iar :
    let t := after (selected none (some 0) (virtual (vready (soft true false 0xA0#8 0x25#10) ListReg.reset 0#32 0xff#8)
      base)) (.bus 0xC00C#16 .w4 0 0#32)
    t.out.resp = some (.okData 0x25#32) ∧ (t.virtIf 0).listReg 0 = soft false true 0xA0#8 0x25#10 ∧
      (t.virtIf 0).apr = 0x100000#32 ∧ (t.virtIf 0).rpr = 0xA0#8 ∧ (t.arbOut 0).vhppir = none := by decide +kernel

/-- V18.6: 0xA0 does not preempt a running 0xA0. -/
theorem test_gicv_iar_spurious :
    reads (selected none (some 1) (virtual (vready ListReg.reset (soft true false 0xA0#8 0x26#10) 0#32 0xA0#8) base))
      0xC00C#16 0 = some (.okData 0x3ff#32) := by decide +kernel

/-- V19.4: MSB pops bit 20, whatever entry the EOI names. -/
theorem test_gicv_eoir :
    let t := writes (virtual (vready (soft false true 0xA0#8 0x25#10) (soft false true 0x40#8 0x26#10) 0x100100#32 0xA0#8)
      base) 0xE010#16 0 0x26#32
    (t.virtIf 0).apr = 0x100#32 ∧ (t.virtIf 0).rpr = 0x40#8 ∧ ((t.virtIf 0).listReg 1).active = false ∧
      ((t.virtIf 0).listReg 0).active = true := by decide +kernel

/-- V19.6: a hardware-backed entry deactivates its physical interrupt; V19.7: a bad physical ID does not. -/
theorem test_gicv_eoir_hw :
    let s := fun pid => virtual (vready ListReg.reset (hard false true 0x40#8 0x28#10 pid) 0x100#32 0x40#8)
      (masks 40 0#8 0#8 0xff#8 0#8 0xff#8 base)
    maskAt (writes (s 40#10) 0xE010#16 0 0x28#32).store.active 40 = 0#8 ∧
      maskAt (writes (s 40#10) 0xE010#16 0 0x28#32).store.signaled 40 = 0#8 ∧
      maskAt (writes (s 40#10) 0xE010#16 0 0x28#32).store.pending 40 = 0#8 ∧
      (writes (s 16#10) 0xE010#16 0 0x28#32).out.diag = [.badLrPhysicalId] ∧
      maskAt (writes (s 16#10) 0xE010#16 0 0x28#32).store.active 40 = 0xff#8 := by decide +kernel

/-! ## One step: events and errors -/

/-- V2.1, V2.2, V2.3. -/
theorem test_line_level :
    maskAt (after base (.line (.spi 8) true)).store.pending 40 = 0xff#8 ∧
    maskAt (after (masks 40 0#8 0#8 0xff#8 0#8 0xff#8 base) (.line (.spi 8) true)).store.pending 40 = 0#8 ∧
    maskAt (after (masks 40 0#8 0xff#8 0#8 0xff#8 0#8 base) (.line (.spi 8) false)).store.pending 40 = 0#8 ∧
    maskAt (after (masks 40 0#8 0xff#8 0#8 0xff#8 0#8 base) (.line (.spi 8) false)).store.level 40 = 0#8 := by
  decide +kernel

/-- V2.6 to V2.9. -/
theorem test_line_edge :
    maskAt (after (edge 27 base) (.line (.ppi 1 11) true)).store.pending 27 = 2#8 ∧
    maskAt (after (edge 27 (masks 27 0#8 2#8 0#8 2#8 0#8 base)) (.line (.ppi 1 11) false)).store.pending 27 = 2#8 ∧
    maskAt (after (edge 27 (masks 27 0#8 0#8 2#8 0#8 2#8 base)) (.line (.ppi 1 11) true)).store.pending 27 = 2#8 ∧
    maskAt (after (edge 27 (masks 27 0#8 0#8 2#8 0#8 2#8 (State.resetWith { small with edgeGatedBySignaled := true })))
      (.line (.ppi 1 11) true)).store.pending 27 = 0#8 := by decide +kernel

/-- R480: reset clears the state, whatever it was. -/
theorem test_reset :
    let t := after (ready [40] 0x80#8 (masks 40 0xff#8 0xff#8 0xff#8 0xff#8 0xff#8 base)) .reset
    maskAt t.store.level 40 = 0#8 ∧ t.cpuIf 0 = CpuIf.reset ∧ t.dctlr = 0#2 ∧ t.arbOut 0 = ArbOut.reset := by
  decide +kernel

/-- P5, steps 2 to 4, under both policies. -/
theorem test_access_error :
    (after base (.bus 0x0008#16 .w4 0 0#32)).out = ⟨some .error, [.accessError .unmapped]⟩ ∧
    (writes base 0x2304#16 0 0xffffffff#32).out = ⟨some .error, [.accessError .writeRo]⟩ ∧
    (after base (.bus 0x2000#16 .w1 0 1#32)).dctlr = 0#2 ∧
    (after (State.resetWith { small with accessErrorPolicy := .razWi }) (.bus 0x0008#16 .w4 0 0#32)).out.resp =
      some (.okData 0#32) ∧
    (writes (State.resetWith { small with accessErrorPolicy := .razWi }) 0x2304#16 0 0xffffffff#32).out.resp =
      some .ok := by decide +kernel

/-- R462 with V23's setting: an unconnected initiator acts as CPU 0. -/
theorem test_unmapped_initiator :
    (after base (.bus 0x0800#16 .w4 5 0#32)).out = ⟨some (.okData 0x01010101#32), [.accessFromUnmappedCpu 5]⟩ := by
  decide +kernel

/-- V20.1, V20.2: equal priorities go to the lower ID, a better priority to the higher one. -/
theorem test_arbitration :
    let s := ready [] 0xff#8 (spi 32 0x40#8 1#8 (masks 32 0xff#8 0xff#8 0#8 0#8 0#8 (masks 20 1#8 1#8 0#8 0#8 0#8
      { base with prioPriv := base.prioPriv.set 0 (base.prioPriv[0].setIfInBounds 20 0x40#8) })))
    ((update s).arbOut 0).hppir = some 20 ∧ ((update (spi 32 0x3f#8 1#8 s)).arbOut 0).hppir = some 32 ∧
      ((update (spi 32 0x3f#8 2#8 s)).arbOut 0).hppir = some 20 := by decide +kernel

/-- R9, R10, R435. -/
theorem test_construct :
    goesOn (construct 8 480 .error false false .msb .allOpen) = true ∧
    goesOn (construct 1 0 .razWi true true .lsb .allOpen) = true ∧
    construct 9 0 .error false false .msb .allOpen = .fault (.configuration .badNumCpu) ∧
    construct 0 0 .error false false .msb .allOpen = .fault (.configuration .badNumCpu) ∧
    construct 1 481 .error false false .msb .allOpen = .fault (.configuration .tooManyInterrupts) :=
  ⟨rfl, rfl, rfl, rfl, rfl⟩

/-- R80, R89: a window's addresses start at its base; an OPEN base gives none. -/
theorem test_systemAddress :
    let p : Params := { small with bases := { WindowBases.allOpen with cpu := some 0x2C002000 } }
    p.systemAddress .gicc 0x1FFF = some 0x2C003FFF ∧ p.systemAddress .gicc 0x2000 = none ∧
    p.systemAddress .gicd 0 = none := by decide

/-- The first step after reset runs the bare table word (here GICD_TYPER of the default block). -/
theorem test_withFetchWord : step (State.reset.withFetchWord 16 0x0004) = exec (.rdGicdTyper 0) State.reset := rfl

/-! ## Witnesses: for each statement with hypotheses, a concrete case that meets them all -/

/-- Boundary operands of the well-formed instructions, with their LINE rows selected. -/
theorem witness_DecodeEncodeRoundTrip :
    ([.rdGicdIsenablerSpi 15 0, .wrGicdIcfgrSpi 2 1 0#32, .wrGicdIpriorityrSpi 511 .w1 9 0xff#32,
      .rdGicdItargetsrPriv 30 .w2 0, .wrGichLr 3 0 1#32, .lineLevel (.spi 15) true, .lineLevel (.ppi 1 15) false,
      .accessError 0x2F00#16 .w1 0 5#32, .reset] : List Instr).all
        (fun i => i.wf small && i.selectedBy (fun _ => .level)) = true ∧
    (Instr.lineEdge (.spi 0) true).wf small = true ∧ (Instr.lineEdge (.spi 0) true).selectedBy (fun _ => .edge) = true := by
  decide +kernel

theorem witness_DecodedIsWellFormedAndReencodes :
    decode small (fun _ => .edge) (.line (.ppi 1 15) true) = .ok (.lineEdge (.ppi 1 15) true) ∧
    decode small (fun _ => .edge) (.bus 0x2428#16 .w1 0 0xf80#32) = .ok (.wrGicdIpriorityrSpi 40 .w1 0 0x80#32) := by
  decide +kernel

theorem witness_StepRunsDecodedInstruction :
    decode base.params base.store.triggerOf (.bus 0x2104#16 .w4 1 1#32) = .ok (.wrGicdIsenablerSpi 1 1 1#32) := rfl

theorem witness_StepWithoutDeliverableRequest :
    base.inbox = [] ∧ (Port.spi 16).present base.params = false ∧ (Port.ppi 2 0).present base.params = false :=
  ⟨rfl, rfl, rfl⟩

theorem witness_AccessErrorChangesNoState :
    (if base.params.accessErrorPolicy = .error then Response.error
      else if keyDir 0x0008#16 = .read then .okData 0#32 else .ok) = .error ∧
    accessErrorCause 0x1fff#16 .w4 = some .unmapped ∧ accessErrorCause 0x2c00#16 .w4 = some .writeRo ∧
    accessErrorCause 0x0f00#16 .w4 = some .readWo ∧ accessErrorCause 0x810c#16 .w2 = some .width ∧
    accessErrorCause 0x05fe#16 .w4 = some .misaligned := by decide +kernel

theorem witness_OnlyIarReadsHaveSideEffects :
    keyDir 0x4018#16 = .read ∧ (0x4018#16 : BitVec 16) ≠ 0x400C#16 ∧ (0x4018#16 : BitVec 16) ≠ 0xC00C#16 := by
  decide +kernel

theorem witness_UnmappedInitiatorActsAsCpuZero : base.params.numCpu ≤ 2 := by decide

theorem witness_ConstructionChecksParameters :
    (1 ≤ 1 ∧ 1 ≤ 8 ∧ 480 ≤ 480) ∧ ¬(1 ≤ 9 ∧ 9 ≤ 8 ∧ 0 ≤ 480) ∧ ¬(1 ≤ 0 ∧ 0 ≤ 8 ∧ 0 ≤ 480) ∧
    ¬(1 ≤ 8 ∧ 8 ≤ 8 ∧ 481 ≤ 480) := by decide

theorem witness_ResetLeavesSpecValues : 32 ≤ (32 : Irq).val ∧ 32 ≤ (511 : Irq).val := by decide

theorem witness_StorePredicatesTestAnyBit : (512 : Nat) ≤ 600 := by decide

theorem witness_StoreLaws : (40 : Nat) < 512 ∧ ((40 : Nat) ≠ 41 ∨ (1#8 : CpuMask) &&& 2#8 = 0#8) := by decide

theorem witness_UpdateOfConnectedAndUnconnected :
    (1 : Cpu).val < base.params.numCpu ∧ base.params.numCpu ≤ (2 : Cpu).val := by decide

/-- UpdateSelectsBestPhysicalCandidate: both sides of its equivalence hold somewhere. -/
theorem witness_UpdateSelectsBestPhysicalCandidate :
    (0 : Cpu).val < base.params.numCpu ∧
    ((update (ready [] 0xff#8 (masks 20 1#8 1#8 0#8 0#8 0#8 base))).arbOut 0).hppir = some 20 := by decide +kernel

/-- UpdateSelectsBestListRegister: both sides of its equivalence hold somewhere. -/
theorem witness_UpdateSelectsBestListRegister :
    (0 : Cpu).val < base.params.numCpu ∧
    ((update (virtual (vready ListReg.reset (soft true false 0xA0#8 0x26#10) 0#32 0xff#8) base)).arbOut 0).vhppir =
      some 1 := by decide +kernel

/-- OutputLineHighIffAcknowledgeSucceeds: each line is high somewhere and low somewhere. -/
theorem witness_OutputLineHighIffAcknowledgeSucceeds :
    (0 : Cpu).val < base.params.numCpu ∧ (update base).irqOut 0 = false ∧ (update base).virqOut 0 = false ∧
    (update (ready [] 0xff#8 (masks 20 1#8 1#8 0#8 0#8 0#8 base))).irqOut 0 = true ∧
    (update (virtual (vready (soft true false 0#8 5#10) ListReg.reset 0#32 0xff#8) base)).virqOut 0 = true := by
  decide +kernel

/-- OneBitRegistersRead, EnableWritesWithLevelCatchUp, PendingWritesSpareSgis, IcfgrRead, IcfgrWriteSetsTriggers and
ByteRegistersRead name the instructions they speak of by an equation: word 0 and the last word. -/
theorem witness_instructionsByEquation :
    (∃ i : Instr, (0 = 0 ∧ (i = .rdGicdIsenabler0 1 ∨ i = .rdGicdIcenabler0 1)) ∨ i = .rdGicdIsenablerSpi 0 1 ∨
      i = .rdGicdIcenablerSpi 0 1) ∧
    (∃ i : Instr, (15 = 0 ∧ i = .wrGicdIsenabler0 1 0#32) ∨ i = .wrGicdIsenablerSpi 15 1 0#32) ∧
    (∃ (i : Instr) (v : Bool), (15 = 0 ∧ v = true ∧ i = .wrGicdIspendr0 1 0#32) ∨
      (v = true ∧ i = .wrGicdIspendrSpi 15 1 0#32) ∨ (15 = 0 ∧ v = false ∧ i = .wrGicdIcpendr0 1 0#32) ∨
      (v = false ∧ i = .wrGicdIcpendrSpi 15 1 0#32)) ∧
    (∃ i : Instr, (1 = 0 ∧ i = .rdGicdIcfgr0 1) ∨ (1 = 1 ∧ i = .rdGicdIcfgr1 1) ∨ i = .rdGicdIcfgrSpi 1 1) ∧
    (∃ i : Instr, (31 = 1 ∧ i = .wrGicdIcfgr1 1 0#32) ∨ i = .wrGicdIcfgrSpi 31 1 0#32) ∧
    (∃ i : Instr, i = .rdGicdIpriorityrPriv 31 .w1 1 ∨ i = .rdGicdIpriorityrSpi 31 .w1 1) ∧
    (∃ i : Instr, i = .rdGicdCpendsgir 15 .w1 1 ∨ i = .rdGicdSpendsgir 15 .w1 1) :=
  ⟨⟨_, .inl ⟨rfl, .inl rfl⟩⟩, ⟨_, .inr rfl⟩, ⟨_, true, .inr (.inl ⟨rfl, rfl⟩)⟩, ⟨_, .inr (.inl ⟨rfl, rfl⟩)⟩,
    ⟨_, .inr rfl⟩, ⟨_, .inl rfl⟩, ⟨_, .inr rfl⟩⟩

/-- SgirRaisesOnTargets: the four filters. -/
theorem witness_SgirRaisesOnTargets :
    BitVec.extractLsb' 24 2 0x03FF0001#32 = 3#2 ∧ BitVec.extractLsb' 24 2 0x00050007#32 ≠ 3#2 ∧
    BitVec.extractLsb' 24 2 0x01000005#32 ≠ 3#2 ∧ BitVec.extractLsb' 24 2 0x0200000F#32 ≠ 3#2 := by decide

theorem witness_SgiSourceWritesKeepPendingInStep :
    (∃ (i : Instr) (v : Bool), (v = true ∧ i = .wrGicdSpendsgir 15 .w1 0 1#32) ∨
      (v = false ∧ i = .wrGicdCpendsgir 15 .w1 0 1#32)) ∧
    (∃ (i : Instr) (v : Bool), (v = true ∧ i = .wrGicdSpendsgir 0 .w4 0 1#32) ∨
      (v = false ∧ i = .wrGicdCpendsgir 0 .w4 0 1#32)) :=
  ⟨⟨_, true, .inl ⟨rfl, rfl⟩⟩, ⟨_, false, .inr ⟨rfl, rfl⟩⟩⟩

/-- CpuInterfaceRegisters, VirtualControlRegisters and VirtualCpuInterfaceRegisters. -/
theorem witness_registersOfTheCurrentCpu :
    CpuIf.reset = base.cpuIf (base.current 1) ∧ VirtIf.reset = base.virtIf (base.current 1) := by decide +kernel

/-- HighestPendingReads: no selection; a PPI; an SGI with and without a source; a list register. -/
theorem witness_HighestPendingReads :
    (0 : Cpu) = base.current 0 ∧ (base.arbOut 0).hppir = none ∧ (base.arbOut 0).vhppir = none ∧
    ((selected (some 16) (some 3) base).arbOut 0).hppir = some 16 ∧
    ((selected (some 16) (some 3) base).arbOut 0).vhppir = some 3 ∧
    ((selected (some 15) none (sources 15 6#8 base)).arbOut 0).hppir = some 15 ∧
    ((selected (some 15) none (sources 15 6#8 base)).sgiSources 0 15).getLsbD 1 = true ∧
    (∀ k < 1, ((selected (some 15) none (sources 15 6#8 base)).sgiSources 0 15).getLsbD k = false) ∧
    (selected (some 15) none base).sgiSources 0 15 = 0#8 := by decide +kernel

/-- SpuriousAcknowledgeChangesNothing: a selection that cannot preempt, in each domain. -/
theorem witness_SpuriousAcknowledgeChangesNothing :
    let s := selected (some 40) (some 1) (virtual (vready ListReg.reset (soft true false 0xA0#8 1#10) 0#32 0xA0#8)
      (ready [40] 0x80#8 (spi 40 0x80#8 1#8 base)))
    (∀ irq : Irq, (s.arbOut (s.current 0)).hppir = some irq →
      ¬(s.prio irq.val (s.current 0)).toNat < (s.cpuIf (s.current 0)).rpr.toNat) ∧
    (∀ i : LrIx, (s.arbOut (s.current 0)).vhppir = some i →
      ¬((s.virtIf (s.current 0)).listReg i).prio.toNat < (s.virtIf (s.current 0)).rpr.toNat) := by decide +kernel

/-- AcknowledgeOfPpiOrSpi: the lowest PPI and an SPI. -/
theorem witness_AcknowledgeOfPpiOrSpi :
    let s := fun irq : Irq => selected (some irq) none (ready [] 0xff#8 base)
    (0 : Cpu) = (s 16).current 0 ∧ ((s 16).arbOut 0).hppir = some 16 ∧
      ((s 16).prio (16 : Irq).val 0).toNat < ((s 16).cpuIf 0).rpr.toNat ∧ 16 ≤ (16 : Irq).val ∧
      ((s 47).arbOut 0).hppir = some 47 ∧ ((s 47).prio (47 : Irq).val 0).toNat < ((s 47).cpuIf 0).rpr.toNat ∧
      16 ≤ (47 : Irq).val := by decide +kernel

/-- AcknowledgeOfSgiConsumesOneSource: with a source and without one. -/
theorem witness_AcknowledgeOfSgiConsumesOneSource :
    let s := fun m : CpuMask => selected (some 15) none (ready [] 0xff#8 (sources 15 m base))
    (0 : Cpu) = (s 6#8).current 0 ∧ ((s 6#8).arbOut 0).hppir = some 15 ∧
      ((s 6#8).prio (15 : Irq).val 0).toNat < ((s 6#8).cpuIf 0).rpr.toNat ∧ (15 : Irq).val < 16 ∧
      ((s 6#8).sgiSources 0 15).getLsbD 1 = true ∧ (∀ k < 1, ((s 6#8).sgiSources 0 15).getLsbD k = false) ∧
      4#8 = (s 6#8).sgiSources 0 15 &&& ~~~(1#8 <<< 1) ∧ (s 0#8).sgiSources 0 15 = 0#8 ∧
      ((s 0#8).arbOut 0).hppir = some 15 := by decide +kernel

/-- IgnoredEndOfInterrupt: each of its three causes. -/
theorem witness_IgnoredEndOfInterrupt :
    512 ≤ (BitVec.setWidth 10 512#32).toNat ∧ (base.cpuIf (base.current 0)).stk = [] ∧
    (∀ x : Irq, x ∈ ((ready [40] 0x80#8 base).cpuIf ((ready [40] 0x80#8 base).current 0)).stk →
      x.val ≠ (BitVec.setWidth 10 41#32).toNat) := by decide +kernel

/-- InOrderEndOfInterrupt: the last interrupt, and a nested one. -/
theorem witness_InOrderEndOfInterrupt :
    (0 : Cpu) = (ready [40] 0x80#8 base).current 0 ∧ (BitVec.setWidth 10 0x428#32).toNat = (40 : Irq).val ∧
    ((ready [40] 0x80#8 base).cpuIf 0).stk = 40 :: [] ∧ ((ready [40, 33] 0x80#8 base).cpuIf 0).stk = 40 :: [33] := by
  decide +kernel

theorem witness_OutOfOrderEndOfInterrupt :
    (0 : Cpu) = (ready [34, 33] 0x40#8 base).current 0 ∧ (BitVec.setWidth 10 33#32).toNat = (33 : Irq).val ∧
    ((ready [34, 33] 0x40#8 base).cpuIf 0).stk = [34] ++ 33 :: [] ∧ ([34] : List Irq) ≠ [] ∧ 33 ∉ ([34] : List Irq) := by
  decide +kernel

/-- AcknowledgeThenEndRestoresPriority: the acknowledge of SPI 40 by an idle CPU 0, and by one that runs SPI 33. -/
theorem witness_AcknowledgeThenEndRestoresPriority :
    let s := selected (some 40) none (ready [] 0xff#8 (spi 40 0x80#8 1#8 base))
    let s' := selected (some 40) none (ready [33] 0xA0#8 (spi 33 0xA0#8 1#8 (spi 40 0x80#8 1#8 base)))
    (∃ t, exec (.rdGiccIar 0) s = .next t ∧ t.out.resp = some (.okData 40#32)) ∧ (40#32 : Word) ≠ 1023#32 ∧
      (s.cpuIf (s.current 0)).stk = [] ∧ (s.cpuIf (s.current 0)).rpr = 0xff#8 ∧
      (s'.cpuIf (s'.current 0)).stk = 33 :: [] ∧
      (s'.cpuIf (s'.current 0)).rpr = s'.prio (33 : Irq).val (s'.current 0) := by
  refine ⟨exists_of_respOf (by decide +kernel), ?_⟩
  decide +kernel

/-- ListRegisterLookup: a hit behind a stale entry, and a miss (V17.6, V17.7). -/
theorem witness_ListRegisterLookup :
    getLr (vready (soft false false 0#8 0x30#10) (soft false true 0x40#8 0x30#10) 0#32 0xff#8) 0x30#10 = some 1 ∧
    getLr (vready (soft false false 0#8 0x30#10) ListReg.reset 0#32 0xff#8) 0x30#10 = none := by decide +kernel

theorem witness_AprPrioNamesASetBit :
    BitVec.getLsbD 0x80000001#32 31 = true ∧ BitVec.getLsbD 0x80000001#32 0 = true ∧
    (∀ k : Nat, 31 < k → BitVec.getLsbD 0x80000001#32 k = false) ∧
    (∀ k : Nat, k < 0 → BitVec.getLsbD 0x80000001#32 k = false) :=
  ⟨by decide, by decide, fun k hk => BitVec.getLsbD_of_ge _ _ hk, fun k hk => absurd hk (Nat.not_lt_zero k)⟩

theorem witness_VirtualAcknowledge :
    let s := selected none (some 1) (virtual (vready ListReg.reset (soft true false 0xF8#8 0x26#10) 0#32 0xff#8) base)
    (0 : Cpu) = s.current 0 ∧ (s.arbOut 0).vhppir = some 1 ∧
      ((s.virtIf 0).listReg 1).prio.toNat < (s.virtIf 0).rpr.toNat := by decide +kernel

/-- VirtualEndOfInterrupt: out of range; a miss; a hit that is software, hardware with the IDs 17 and 511, and hardware
with the bad IDs 16 and 512. -/
theorem witness_VirtualEndOfInterrupt :
    let v := fun e : ListReg => vready e ListReg.reset 0#32 0xff#8
    512 ≤ (BitVec.setWidth 10 0x3ff#32).toNat ∧ (BitVec.setWidth 10 0x1ff#32).toNat < 512 ∧
      (0 : Cpu) = base.current 0 ∧ getLr (base.virtIf 0) (BitVec.setWidth 10 0x1ff#32) = none ∧
      (∀ e ∈ [soft false true 0#8 0x28#10, hard false true 0#8 0x28#10 17#10, hard false true 0#8 0x28#10 511#10,
          hard false true 0#8 0x28#10 16#10, hard false true 0#8 0x28#10 512#10],
        getLr (v e) (BitVec.setWidth 10 0x28#32) = some 0) ∧
      ((16 < (17#10).toNat ∧ (17#10).toNat < 512) ∧ (16 < (511#10).toNat ∧ (511#10).toNat < 512) ∧
        ¬(16 < (16#10).toNat ∧ (16#10).toNat < 512) ∧ ¬(16 < (512#10).toNat ∧ (512#10).toNat < 512)) := by
  decide +kernel

/-- NestedVirtualLevelsUnwind: the levels; for the bit a pop clears, the bitmask of witness_AprPrioNamesASetBit. -/
theorem witness_NestedVirtualLevelsUnwind :
    (([31, 0, 20] : List Nat).Nodup ∧ ∀ l : Nat, l ∈ ([31, 0, 20] : List Nat) → l < 32) ∧
    (BitVec.getLsbD 0x80000001#32 31 = true ∧ ∀ k : Nat, 31 < k → BitVec.getLsbD 0x80000001#32 k = false) ∧
    (BitVec.getLsbD 0x80000001#32 0 = true ∧ ∀ k : Nat, k < 0 → BitVec.getLsbD 0x80000001#32 k = false) :=
  ⟨by decide, ⟨by decide, fun k hk => BitVec.getLsbD_of_ge _ _ hk⟩, by decide, fun k hk => absurd hk (Nat.not_lt_zero k)⟩

/-- LevelLineEvent and EdgeLineEvent: a PPI and an SPI, each with a repeated and a changed level. -/
theorem witness_LineEvents :
    (∀ (c : Cpu) (k : Fin 16), Port.ppi 7 15 = .ppi c k → 31 = 16 + k.val ∧ 0x80#8 = 1#8 <<< c.val) ∧
    (∀ x : Fin 480, Port.spi 479 = .spi x → 511 = 32 + x.val ∧ (0xff#8 : CpuMask) = 0xff#8) ∧
    false = decide (maskAt base.store.level 31 &&& 0x80#8 ≠ 0#8) ∧
    true ≠ decide (maskAt base.store.level 31 &&& 0x80#8 ≠ 0#8) ∧
    true = decide (maskAt (masks 511 0#8 0#8 0#8 0xff#8 0#8 base).store.level 511 &&& 0xff#8 ≠ 0#8) := by
  refine ⟨?_, ?_, by decide +kernel, by decide +kernel, by decide +kernel⟩
  · intro c k h; cases h; decide
  · intro x h; cases h; decide

/-- A state with an SGI pending from a source, an SPI enabled and pending, and list registers in use. -/
def busy : State :=
  sources 3 6#8 (masks 3 1#8 1#8 0#8 0#8 0#8 (masks 40 0xff#8 0xff#8 0#8 0xff#8 0#8
    (virtual (vready (listRegOfWord 0x1A000025#32) (listRegOfWord 0x9400A028#32) 0#32 0xff#8) base)))

/-- The masks of one ID, read back. -/
theorem masks_at (t : Vector CpuMask 512) (i : Nat) (m : CpuMask) (j : Nat) :
    maskAt (t.setIfInBounds i m) j = if j = i ∧ i < 512 then m else maskAt t j := tabGet_setIfInBounds ..

theorem witness_StepKeepsSgiPendingInStepWithSources :
    busy.SgiSourcesMatch ∧ ∃ t, step (busy.deliver (.bus 0x2F13#16 .w1 0 2#32)) = .next t := by
  refine ⟨?_, _, rfl⟩
  unfold State.SgiSourcesMatch
  decide +kernel

theorem witness_StepKeepsSpiMasksUniform :
    busy.SpiMasksUniform ∧ ∃ t, step (busy.deliver (.bus 0x2104#16 .w4 0 0x100#32)) = .next t := by
  refine ⟨fun irq h => ?_, _, rfl⟩
  have h32 : 32 ≤ irq.val := h
  have h3 : ¬(irq.val = 3 ∧ 3 < 512) := by omega
  simp only [busy, sources, masks, virtual, base, State.resetWith, Store.reset, masks_at, maskAt_replicate, if_neg h3,
    Uniform]
  split_ifs <;> decide

theorem witness_StepKeepsVirtualStateFaithful :
    busy.ListRegsFaithful ∧ busy.VirtualPriorityFaithful ∧
      ∃ t, step (busy.deliver (.bus 0xA100#16 .w4 0 0x1A000025#32)) = .next t := by
  refine ⟨?_, ?_, _, rfl⟩
  · unfold State.ListRegsFaithful
    decide +kernel
  · unfold State.VirtualPriorityFaithful
    decide +kernel

theorem witness_StepKeepsUnusedAndIdleQuiet :
    busy.UnconnectedQuiet ∧ busy.UnimplementedQuiet ∧ busy.IdleWhenEmpty ∧
      ∃ t, step (busy.deliver (.bus 0x6010#16 .w4 0 0x28#32)) = .next t := by
  refine ⟨?_, fun irq h => ?_, ?_, exists_of_goesOn (by decide +kernel)⟩
  · unfold State.UnconnectedQuiet
    decide +kernel
  · have h48 : 48 ≤ irq.val := h
    have h3 : ¬(irq.val = 3 ∧ 3 < 512) := by omega
    have h40 : ¬(irq.val = 40 ∧ 40 < 512) := by omega
    simp only [busy, sources, masks, virtual, base, State.resetWith, Store.reset, masks_at, maskAt_replicate, if_neg h3,
      if_neg h40, State.targets, tabGet_replicate, State.arbOut, Vector.getElem_replicate, ArbOut.reset, ne_eq,
      reduceCtorEq, not_false_eq_true, implies_true, and_self]
  · unfold State.IdleWhenEmpty
    decide +kernel

/-- OnlyIcactiver0LeavesStaleArbitration: each of its two premises. -/
theorem witness_OnlyIcactiver0LeavesStaleArbitration :
    base.Arbitrated ∧ (∃ t, exec (.wrGicdCtlr 0 1#32) base = .next t) ∧
      (∀ (init : Nat) (data : Word), Instr.wrGicdCtlr 0 1#32 ≠ .wrGicdIcactiver0 init data) ∧
      (State.resetWith { small with icactiverPpiUpdates := true }).params.icactiverPpiUpdates = true ∧
      (State.resetWith { small with icactiverPpiUpdates := true }).Arbitrated := by
  refine ⟨(arbitrated_iff _).mpr ?_, ⟨_, rfl⟩, nofun, rfl, (arbitrated_iff _).mpr ?_⟩ <;> decide +kernel

/-- OnlyAcknowledgeSetsActive: an instruction that is none of those it names. -/
theorem witness_OnlyAcknowledgeSetsActive :
    (∃ t, exec (.wrGicdCtlr 0 1#32) busy = .next t) ∧ (∀ init : Nat, Instr.wrGicdCtlr 0 1#32 ≠ .rdGiccIar init) ∧
      Instr.wrGicdCtlr 0 1#32 ≠ .reset ∧
      (∀ (init : Nat) (data : Word), Instr.wrGicdCtlr 0 1#32 ≠ .wrGiccEoir init data ∧
        Instr.wrGicdCtlr 0 1#32 ≠ .wrGicvEoir init data) ∧
      (∀ (word init : Nat) (data : Word), Instr.wrGicdCtlr 0 1#32 ≠ .wrGicdIcactiver0 init data ∧
        Instr.wrGicdCtlr 0 1#32 ≠ .wrGicdIcactiverSpi word init data) :=
  ⟨⟨_, rfl⟩, nofun, nofun, fun _ _ => ⟨nofun, nofun⟩, fun _ _ _ => ⟨nofun, nofun⟩⟩

/-- AccessSparesOtherCpusBanks: an access that is no GICD_SGIR write, and the lowest PPI. -/
theorem witness_AccessSparesOtherCpusBanks :
    (∃ t, step (busy.deliver (.bus 0x2100#16 .w4 1 1#32)) = .next t) ∧ (0 : Cpu) ≠ busy.current 1 ∧
      ¬((0x2100#16 : BitVec 16) = 0x2F00#16 ∧ Width.w4 = .w4) ∧ 16 ≤ (16 : Fin 32).val :=
  ⟨⟨_, rfl⟩, by decide +kernel, by decide, by decide⟩

end Sys2Proof.Tests
end

section
/-! SUPPORT. Scope (00_scope.md): elaboration accepts exactly the allowed parameters, and the three invariants that keep
what a block does not use quiet: unconnected CPUs, unimplemented IDs, and the running priority of an idle CPU. -/

namespace Sys2Proof.Machine

/-! ## Elaboration (R9, R10, R435) -/

theorem elaborate_of_allowed (numCpu numSpi : Nat) (policy : AccessErrorPolicy) (edgeGated icactiverUpdates : Bool)
    (sel : AprSelect) (bases : WindowBases) (hc : 0 < numCpu ∧ numCpu ≤ 8) (hs : numSpi ≤ 480) :
    Params.elaborate numCpu numSpi policy edgeGated icactiverUpdates sel bases =
      .ok { numCpu, numSpi, accessErrorPolicy := policy, edgeGatedBySignaled := edgeGated,
            icactiverPpiUpdates := icactiverUpdates, aprSelect := sel, bases,
            numCpu_pos := hc.1, numCpu_le := hc.2, numSpi_le := hs } := by
  rw [Params.elaborate, dif_pos hc, dif_pos hs]

theorem elaborate_of_not_allowed (numCpu numSpi : Nat) (policy : AccessErrorPolicy)
    (edgeGated icactiverUpdates : Bool) (sel : AprSelect) (bases : WindowBases)
    (h : ¬(1 ≤ numCpu ∧ numCpu ≤ 8 ∧ numSpi ≤ 480)) :
    ∃ e : ConfigError, Params.elaborate numCpu numSpi policy edgeGated icactiverUpdates sel bases = .error e := by
  rw [Params.elaborate]
  split_ifs with hc hs
  · exact absurd ⟨hc.1, hc.2, hs⟩ h
  · exact ⟨_, rfl⟩
  · exact ⟨_, rfl⟩

/-- Settles O11: construction follows elaboration, which succeeds exactly in the allowed range. -/
theorem constructionChecksParameters : Obligations.ConstructionChecksParameters := by
  intro numCpu numSpi policy edgeGated icactiverUpdates sel bases
  constructor
  · rintro ⟨h1, h8, hs⟩
    have he := elaborate_of_allowed numCpu numSpi policy edgeGated icactiverUpdates sel bases ⟨h1, h8⟩ hs
    exact ⟨_, rfl, rfl, rfl, rfl, rfl, rfl, rfl, by rw [construct, he]⟩
  · intro h
    obtain ⟨e, he⟩ := elaborate_of_not_allowed numCpu numSpi policy edgeGated icactiverUpdates sel bases h
    exact ⟨e, by rw [construct, he]⟩

/-! ## What every effect keeps: the parameters, and the arbiter's results but at reset -/

/-- What the virtual end of interrupt does outside the virtual interfaces: at most DEACTIVATE (R371 to R373). -/
theorem virtualDeactivate_effect (s : State) (c : Cpu) (vid : BitVec 10) :
    (virtualDeactivate s c vid).1 = s ∨ ∃ v : VirtIf, (virtualDeactivate s c vid).1 = s.setVirtIf c v ∨
      ∃ pid : Nat, (virtualDeactivate s c vid).1 =
        (s.setVirtIf c v).onStore (fun st => st.deactivate pid (maskFor pid c)) := by
  rcases virtualDeactivate_cases s c vid with
    ⟨-, h⟩ | ⟨i, e, -, -, ⟨-, -, -, h⟩ | ⟨-, -, h⟩ | ⟨-, h⟩⟩ <;> rw [h]
  · exact .inl rfl
  · exact .inr ⟨_, .inr ⟨_, rfl⟩⟩
  · exact .inr ⟨_, .inl rfl⟩
  · exact .inr ⟨_, .inl rfl⟩

/-- No effect changes the parameters, and only UPDATE and reset write the arbiter's results (R409, R480). -/
theorem Effect.params_arbOut {i : Instr} {c : Cpu} {s u : State} (h : Effect i c s u) :
    u.params = s.params ∧ ∀ d : Cpu, u.arbOut d = s.arbOut d ∨ u.arbOut d = ArbOut.reset := by
  cases h
  case prioPriv => rw [forBytes_setPrioPriv_eq]; exact ⟨rfl, fun _ => .inl rfl⟩
  case prioSpi => rw [forBytes_setPrioSpi_eq]; exact ⟨rfl, fun _ => .inl rfl⟩
  case targets => rw [forBytes_setTargets_eq]; exact ⟨rfl, fun _ => .inl rfl⟩
  case sgir => rw [raiseSgi_eq]; exact ⟨rfl, fun _ => .inl rfl⟩
  case sgiSources => rw [forBytes_writeSgiSources_eq]; exact ⟨rfl, fun _ => .inl rfl⟩
  case take => rw [takeInterrupt_eq]; exact ⟨rfl, fun _ => .inl rfl⟩
  case endVirtual vid _ _ =>
    rcases virtualDeactivate_effect (s.setVirtIf c (virtualDrop s.params.aprSelect (s.virtIf c))) c vid with
      h | ⟨v, h | ⟨pid, h⟩⟩ <;> rw [h] <;> exact ⟨rfl, fun _ => .inl rfl⟩
  case reset => exact ⟨rfl, fun d => .inr (Vector.getElem_replicate d.isLt)⟩
  all_goals exact ⟨rfl, fun _ => .inl rfl⟩

/-! ## Unconnected CPUs (R400) -/

theorem State.UnconnectedQuiet.update {s : State} (hs : s.UnconnectedQuiet) : (update s).UnconnectedQuiet := by
  intro c hc
  have hc : ¬c.val < s.params.numCpu := Nat.not_lt.mpr hc
  rw [update_arbOut, if_neg hc]
  exact hs c (Nat.not_lt.mp hc)

theorem State.UnconnectedQuiet.effect {i : Instr} {c : Cpu} {s u : State} (h : Effect i c s u)
    (hs : s.UnconnectedQuiet) : u.UnconnectedQuiet := by
  obtain ⟨hp, ha⟩ := h.params_arbOut
  intro d hd
  rw [hp] at hd
  rcases ha d with hu | hu
  · rw [hu, hs d hd]
  · exact hu

/-! ## Empty preemption stacks (R282, R291) -/

theorem State.IdleWhenEmpty.setCpuIf {s : State} (hs : s.IdleWhenEmpty) (c : Cpu) (r : CpuIf)
    (hr : r.stk = [] → r.rpr = idlePrio) : (s.setCpuIf c r).IdleWhenEmpty := by
  intro d
  rw [State.setCpuIf_cpuIf]
  split_ifs
  · exact hr
  · exact hs d

/-- An acknowledge pushes, an end restores IDLE_PRIO with the last entry, an out-of-order end leaves the head. -/
theorem State.IdleWhenEmpty.effect {i : Instr} {c : Cpu} {s u : State} (h : Effect i c s u) (hs : s.IdleWhenEmpty) :
    u.IdleWhenEmpty := by
  cases h
  case prioPriv => rw [forBytes_setPrioPriv_eq]; exact hs
  case prioSpi => rw [forBytes_setPrioSpi_eq]; exact hs
  case targets => rw [forBytes_setTargets_eq]; exact hs
  case sgir => rw [raiseSgi_eq]; exact hs
  case sgiSources => rw [forBytes_writeSgiSources_eq]; exact hs
  case cpuRegister r _ hstk hrpr =>
    refine hs.setCpuIf c r fun h => ?_
    rw [hrpr]
    exact hs c (hstk.symm.trans h)
  case take init irq _ =>
    rw [takeInterrupt_eq]
    exact hs.setCpuIf c { s.cpuIf c with stk := irq :: (s.cpuIf c).stk, rpr := s.prio irq.val c } nofun
  case endInOrder irq rest _ _ =>
    refine hs.setCpuIf c { s.cpuIf c with stk := rest, rpr := restoredPrio s c rest } ?_
    rintro rfl
    rfl
  case endOutOfOrder irq top rest hne _ _ hstk =>
    refine hs.setCpuIf c { s.cpuIf c with stk := (s.cpuIf c).stk.erase irq } fun h => ?_
    rw [hstk, List.erase_cons_tail (by simpa using Ne.symm hne)] at h
    cases h
  case endVirtual vid _ _ =>
    rcases virtualDeactivate_effect (s.setVirtIf c (virtualDrop s.params.aprSelect (s.virtIf c))) c vid with
      h | ⟨v, h | ⟨pid, h⟩⟩ <;> rw [h] <;> exact hs
  case reset => exact fun d _ => congrArg CpuIf.rpr (Vector.getElem_replicate d.isLt)
  all_goals exact hs

/-! ## The store at an unimplemented ID (R10) -/

/-- The five masks of the ID are 0. -/
structure Store.QuietAt (st : Store) (irq : Irq) : Prop where
  enabled : maskAt st.enabled irq.val = 0#8
  pending : maskAt st.pending irq.val = 0#8
  active : maskAt st.active irq.val = 0#8
  level : maskAt st.level irq.val = 0#8
  signaled : maskAt st.signaled irq.val = 0#8

/-- A mask that is 0 stays 0 under a write of another ID, and under a clearing of any. -/
theorem maskAt_setMask_zero {t : Vector CpuMask 512} {irq : Irq} (h : maskAt t irq.val = 0#8) {j : Nat} {v : Bool}
    (hj : irq.val ≠ j ∨ v = false) (m : CpuMask) : maskAt (setMask t j v m) irq.val = 0#8 := by
  rw [maskAt_setMask_irq]
  split_ifs with hi hv
  · exact absurd hv (by simp [hj.resolve_left (not_not.mpr hi)])
  · rw [← hi, h, BitVec.zero_and]
  · exact h

namespace Store.QuietAt

variable {st : Store} {irq : Irq} {j : Nat} {v : Bool}

theorem setEnabled (h : st.QuietAt irq) (hj : irq.val ≠ j ∨ v = false) (m : CpuMask) :
    (st.setEnabled j v m).QuietAt irq := { h with enabled := maskAt_setMask_zero h.enabled hj m }

theorem setPending (h : st.QuietAt irq) (hj : irq.val ≠ j ∨ v = false) (m : CpuMask) :
    (st.setPending j v m).QuietAt irq := { h with pending := maskAt_setMask_zero h.pending hj m }

theorem setActive (h : st.QuietAt irq) (hj : irq.val ≠ j ∨ v = false) (m : CpuMask) :
    (st.setActive j v m).QuietAt irq := { h with active := maskAt_setMask_zero h.active hj m }

theorem setLevel (h : st.QuietAt irq) (hj : irq.val ≠ j ∨ v = false) (m : CpuMask) :
    (st.setLevel j v m).QuietAt irq := { h with level := maskAt_setMask_zero h.level hj m }

theorem setSignaled (h : st.QuietAt irq) (hj : irq.val ≠ j ∨ v = false) (m : CpuMask) :
    (st.setSignaled j v m).QuietAt irq := { h with signaled := maskAt_setMask_zero h.signaled hj m }

/-- A quiet ID has its line low, so nothing is caught up. -/
theorem catchUp (h : st.QuietAt irq) (j : Nat) (m : CpuMask) : (st.catchUp j m).QuietAt irq := by
  rw [Store.catchUp]
  split_ifs with hc
  · refine h.setPending (.inl ?_) m
    rintro rfl
    obtain ⟨-, hlevel⟩ := hc
    rw [Store.isLevel_eq, h.level, BitVec.zero_and] at hlevel
    exact absurd hlevel (by decide)
  · exact h

/-- DEACTIVATE keeps every quiet ID quiet, the one it is called with too: an end of interrupt may name an ID that is
not implemented. -/
theorem deactivate (h : st.QuietAt irq) (j : Nat) (m : CpuMask) : (st.deactivate j m).QuietAt irq :=
  ((h.setActive (.inr rfl) m).setSignaled (.inr rfl) m).catchUp j m

theorem enableId (h : st.QuietAt irq) (hj : irq.val ≠ j) (c : Cpu) : (enableId c j st).QuietAt irq :=
  (h.setEnabled (v := true) (.inl hj) _).catchUp j _

theorem disableId (h : st.QuietAt irq) (hj : irq.val ≠ j) (c : Cpu) : (disableId c j st).QuietAt irq :=
  h.setEnabled (.inl hj) _

theorem pendId (h : st.QuietAt irq) (hj : irq.val ≠ j) (c : Cpu) : (pendId v c j st).QuietAt irq := by
  rw [Machine.pendId]
  split_ifs
  · exact h.setPending (.inl hj) _
  · exact h

theorem deactId (h : st.QuietAt irq) (hj : irq.val ≠ j) (c : Cpu) : (deactId c j st).QuietAt irq :=
  h.setActive (.inl hj) _

theorem lineLevelStore (h : st.QuietAt irq) (hj : irq.val ≠ j) (m : CpuMask) (v : Bool) :
    (lineLevelStore j m v st).QuietAt irq := by
  rw [Machine.lineLevelStore]
  split_ifs
  · exact h.setLevel (.inl hj) m
  · exact (h.setLevel (.inl hj) m).setPending (.inl hj) m
  · exact (h.setLevel (.inl hj) m).setPending (.inl hj) m

theorem lineEdgeStore (h : st.QuietAt irq) (hj : irq.val ≠ j) (gated : Bool) (m : CpuMask) (v : Bool) :
    (lineEdgeStore gated j m v st).QuietAt irq := by
  rw [Machine.lineEdgeStore]
  split_ifs
  · exact (h.setLevel (.inl hj) m).setPending (.inl hj) m
  · exact h.setLevel (.inl hj) m

end Store.QuietAt

/-! ## Unimplemented IDs (R10, R401) -/

theorem le_nimpl (p : Params) : 32 ≤ p.nimpl := Nat.le_add_right ..

theorem params_impl_iff (p : Params) (j : Nat) : p.impl j = true ↔ j < p.nimpl := decide_eq_true_iff

namespace State.UnimplementedQuiet

variable {s : State}

theorem quietAt (hs : s.UnimplementedQuiet) (irq : Irq) (h : s.params.nimpl ≤ irq.val) : s.store.QuietAt irq := by
  obtain ⟨he, hp, ha, hl, hg, -⟩ := hs irq h
  exact ⟨he, hp, ha, hl, hg⟩

/-- The invariant depends on five fields of the state. -/
theorem congr (hs : s.UnimplementedQuiet) {t : State} (hp : t.params = s.params) (hst : t.store = s.store)
    (hprio : t.prioSpi = s.prioSpi) (htgt : t.itargets = s.itargets) (harb : t.arb = s.arb) :
    t.UnimplementedQuiet := by
  simp only [State.UnimplementedQuiet, State.targets, State.arbOut, hp, hst, hprio, htgt, harb]
  exact hs

/-- A change of the store that keeps the unimplemented IDs quiet there. -/
theorem onStore (hs : s.UnimplementedQuiet) {f : Store → Store}
    (hf : ∀ irq : Irq, s.params.nimpl ≤ irq.val → s.store.QuietAt irq → (f s.store).QuietAt irq) :
    (s.onStore f).UnimplementedQuiet := by
  intro irq h
  obtain ⟨-, -, -, -, -, hrest⟩ := hs irq h
  obtain ⟨he, hp, ha, hl, hg⟩ := hf irq h (hs.quietAt irq h)
  exact ⟨he, hp, ha, hl, hg, hrest⟩

theorem setSgiSources (hs : s.UnimplementedQuiet) (c : Cpu) (i : Nat) (v : CpuMask) :
    (s.setSgiSources c i v).UnimplementedQuiet := hs.congr rfl rfl rfl rfl rfl

theorem setCpuIf (hs : s.UnimplementedQuiet) (c : Cpu) (r : CpuIf) :
    (s.setCpuIf c r).UnimplementedQuiet := hs.congr rfl rfl rfl rfl rfl

theorem setVirtIf (hs : s.UnimplementedQuiet) (c : Cpu) (v : VirtIf) :
    (s.setVirtIf c v).UnimplementedQuiet := hs.congr rfl rfl rfl rfl rfl

theorem setPending (hs : s.UnimplementedQuiet) {j : Nat} (hj : j < s.params.nimpl) (v : Bool) (m : CpuMask) :
    (s.onStore (fun st => st.setPending j v m)).UnimplementedQuiet :=
  hs.onStore fun irq h hq => hq.setPending (.inl (by omega)) m

/-- A priority write of an implemented ID. -/
theorem setPrioSpi (hs : s.UnimplementedQuiet) {j : Nat} (hj : j < s.params.nimpl) (v : Prio) :
    (s.setPrioSpi j v).UnimplementedQuiet := by
  intro irq h
  rw [State.setPrioSpi_params] at h
  obtain ⟨he, hp, ha, hl, hg, hprio, htgt, hsel⟩ := hs irq h
  have hkeep : tabGet (s.setPrioSpi j v).prioSpi (irq.val - 32) = tabGet s.prioSpi (irq.val - 32) := by
    rw [State.setPrioSpi_prioSpi]
    split_ifs with h32
    · rw [tabGet_setIfInBounds, if_neg (by simp only [nPriv] at h32 ⊢; omega)]
    · rfl
  simp only [State.setPrioSpi_store, State.setPrioSpi_targets, State.setPrioSpi_arbOut, hkeep]
  exact ⟨he, hp, ha, hl, hg, hprio, htgt, hsel⟩

/-- A targets write of an implemented ID. -/
theorem setTargets (hs : s.UnimplementedQuiet) {j : Nat} (hj : j < s.params.nimpl) (v : CpuMask) :
    (s.setTargets j v).UnimplementedQuiet := by
  intro irq h
  rw [State.setTargets_params] at h
  have hkeep : (s.setTargets j v).targets irq.val = s.targets irq.val := by
    have := le_nimpl s.params
    rw [State.setTargets_targets _ _ _ _ (by omega), if_neg (by omega)]
  simp only [State.setTargets_store, State.setTargets_prioSpi, State.setTargets_arbOut, hkeep]
  exact hs irq h

/-- The writes of the one-bit-per-ID registers act on implemented IDs alone (R125). -/
theorem writeWord (hs : s.UnimplementedQuiet) (word : Nat) (data : Word) {f : Nat → Store → Store}
    (hf : ∀ (st : Store) (irq : Irq) (j : Nat), st.QuietAt irq → irq.val ≠ j → (f j st).QuietAt irq) :
    (writeWord s word data f).UnimplementedQuiet :=
  hs.onStore fun irq h hq => forWordIds_inv s.params word data f (·.QuietAt irq)
    (fun st j hj hst => hf st irq j hst (by have := (params_impl_iff s.params j).mp hj; omega)) _ hq

/-- A byte write whose step on an implemented ID keeps the invariant and the parameters (R126). -/
theorem forBytes (hs : s.UnimplementedQuiet) (first : Nat) (n : Width) {f : Nat → Nat → State → State}
    (hf : ∀ (t : State) (k j : Nat), t.UnimplementedQuiet → j < t.params.nimpl → (f k j t).UnimplementedQuiet)
    (hp : ∀ (t : State) (k j : Nat), (f k j t).params = t.params) :
    (forBytes n (fun k t => if s.params.impl (first + k) then f k (first + k) t else t) s).UnimplementedQuiet := by
  refine (forBytes_inv n (fun t : State => t.params = s.params ∧ t.UnimplementedQuiet) _ (fun t k ht => ?_) s
    ⟨rfl, hs⟩).2
  obtain ⟨hparams, ht⟩ := ht
  split_ifs with hi
  · rw [params_impl_iff, ← hparams] at hi
    exact ⟨(hp t k _).trans hparams, hf t k _ ht hi⟩
  · exact ⟨hparams, ht⟩

/-- An acknowledge of an implemented ID. -/
theorem takeInterrupt (hs : s.UnimplementedQuiet) (c : Cpu) {irq : Irq} (hirq : irq.val < s.params.nimpl) :
    (takeInterrupt s c irq).UnimplementedQuiet := by
  have hpend : (consumePending s c irq.val).UnimplementedQuiet ∧
      (consumePending s c irq.val).params = s.params := by
    rw [consumePending]
    split_ifs
    · exact ⟨(hs.setSgiSources c irq.val _).setPending hirq _ _, rfl⟩
    · exact ⟨hs.setPending hirq _ _, rfl⟩
  obtain ⟨hq, hp⟩ := hpend
  rw [Machine.takeInterrupt]
  refine setCpuIf (onStore hq fun j hj h => ?_) c _
  rw [hp] at hj
  have hne : j.val ≠ irq.val := by omega
  exact (h.setActive (.inl hne) _).setSignaled (.inl hne) _

theorem raiseSgi (hs : s.UnimplementedQuiet) {sgi : Nat} (hsgi : sgi < 16) (c : Cpu) (targets : CpuMask) :
    (raiseSgi sgi c targets s).UnimplementedQuiet := by
  refine foldl_inv State.UnimplementedQuiet _ _ (fun t d _ ht => ?_) s hs
  have := le_nimpl t.params
  split_ifs
  · exact (ht.setSgiSources d sgi _).setPending (by rw [State.setSgiSources_params]; omega) _ _
  · exact ht

theorem writeSgiSources (hs : s.UnimplementedQuiet) (c : Cpu) (i : Nat) (v : CpuMask) :
    (writeSgiSources c i v s).UnimplementedQuiet := by
  rw [Machine.writeSgiSources]
  have := le_nimpl s.params
  split_ifs with hi
  · simp only [nSgi] at hi
    exact (hs.setSgiSources c i v).setPending (by rw [State.setSgiSources_params]; omega) _ _
  · exact hs

/-- UPDATE selects among the implemented IDs (R10, R401). -/
theorem update (hs : s.UnimplementedQuiet) : (update s).UnimplementedQuiet := by
  intro irq h
  have h : s.params.nimpl ≤ irq.val := h
  obtain ⟨he, hp, ha, hl, hg, hprio, htgt, hsel⟩ := hs irq h
  refine ⟨he, hp, ha, hl, hg, hprio, htgt, fun c hc => ?_⟩
  rw [update_arbOut] at hc
  split_ifs at hc
  · exact absurd (hppirOf_lt s c irq hc) (Nat.not_lt.mpr h)
  · exact hsel c hc

theorem resetWith (p : Params) : (State.resetWith p).UnimplementedQuiet := by
  intro irq _
  simp [State.resetWith, Store.reset, State.targets, State.arbOut, ArbOut.reset]

/-- The interrupt an acknowledge takes is implemented. -/
theorem viable_lt (hs : s.UnimplementedQuiet) {c : Cpu} {irq : Irq} (h : viable s c = some irq) :
    irq.val < s.params.nimpl := by
  by_contra hge
  obtain ⟨-, -, -, -, -, -, -, hsel⟩ := hs irq (Nat.not_lt.mp hge)
  exact hsel c ((viable_eq_some_iff s c irq).mp h).1

end State.UnimplementedQuiet

/-! ## Line events of present ports (R170) -/

/-- If the instruction is a line event, the block has the port. -/
def PortPresent (p : Params) (i : Instr) : Prop :=
  ∀ (port : Port) (v : Bool), i = .lineLevel port v ∨ i = .lineEdge port v → port.present p = true

/-- No other port's event is decoded (R170, R434). -/
theorem portPresent_of_decode {p : Params} {trig : Nat → Trigger} {r : Request} {i : Instr}
    (h : decode p trig r = .ok i) : PortPresent p i := by
  intro port v hi
  cases r with
  | bus key n init data =>
    have hinit := decodeBus_initiator key n init data
    rw [Except.ok.inj h] at hinit
    rcases hi with rfl | rfl <;> cases hinit
  | line port' v' =>
    rw [decode] at h
    split_ifs at h with hp
    have : port' = port := by
      rcases hi with rfl | rfl <;> split at h <;> cases h <;> rfl
    rw [← this, hp]
  | reset => rcases hi with rfl | rfl <;> cases h

/-- A port that is present drives an implemented ID. -/
theorem irq_lt_of_present {p : Params} {port : Port} (h : port.present p = true) : port.irq < p.nimpl := by
  cases port with
  | ppi c k =>
    have := le_nimpl p
    have := k.isLt
    rw [Port.irq]
    omega
  | spi x => exact Nat.add_lt_add_left (of_decide_eq_true h) 32

/-! ## What an instruction with a present port keeps -/

theorem sgirSgi_lt (data : Word) : sgirSgi data < 16 := BitVec.isLt _

theorem State.UnimplementedQuiet.effect {i : Instr} {c : Cpu} {s u : State} (h : Effect i c s u)
    (hport : PortPresent s.params i) (hs : s.UnimplementedQuiet) : u.UnimplementedQuiet := by
  cases h
  case dctlr => exact hs.congr rfl rfl rfl rfl rfl
  case enable => exact hs.writeWord _ _ fun _ _ _ hq hj => hq.enableId hj c
  case disable => exact hs.writeWord _ _ fun _ _ _ hq hj => hq.disableId hj c
  case pend => exact hs.writeWord _ _ fun _ _ _ hq hj => hq.pendId hj c
  case clearActive => exact hs.writeWord _ _ fun _ _ _ hq hj => hq.deactId hj c
  case prioPriv =>
    rw [forBytes_setPrioPriv_eq]
    exact hs.congr rfl rfl rfl rfl rfl
  case prioSpi first n init data =>
    exact hs.forBytes first n (f := fun k j t => t.setPrioSpi j (byteOf data k))
      (fun _ _ _ ht hj => ht.setPrioSpi hj _) (fun _ _ _ => State.setPrioSpi_params ..)
  case targets first n init data =>
    exact hs.forBytes first n (f := fun k j t => t.setTargets j (byteOf data k))
      (fun _ _ _ ht hj => ht.setTargets hj _) (fun _ _ _ => State.setTargets_params ..)
  case icfgr word init data _ =>
    rw [writeIcfgr_eq]
    exact hs.onStore (f := fun st => { st with trigger := (writeIcfgr s word data).store.trigger })
      fun _ _ hq => { hq with }
  case sgir data targets _ => exact hs.raiseSgi (sgirSgi_lt _) c targets
  case sgiSources => exact forBytes_inv _ State.UnimplementedQuiet _ (fun _ _ ht => ht.writeSgiSources c _ _) s hs
  case cpuRegister => exact hs.setCpuIf c _
  case take irq hv => exact hs.takeInterrupt c (hs.viable_lt hv)
  case endInOrder irq rest _ _ =>
    exact (hs.setCpuIf c _).onStore fun _ _ hq => hq.deactivate _ _
  case endOutOfOrder irq _ _ _ _ _ _ =>
    exact (hs.setCpuIf c _).onStore fun _ _ hq => hq.deactivate _ _
  case virtualRegister => exact hs.setVirtIf c _
  case apr => exact hs.setVirtIf c _
  case listReg => exact hs.setVirtIf c _
  case takeVirtual => exact hs.setVirtIf c _
  case endVirtual vid _ _ =>
    have hd := hs.setVirtIf c (virtualDrop s.params.aprSelect (s.virtIf c))
    rcases virtualDeactivate_effect (s.setVirtIf c (virtualDrop s.params.aprSelect (s.virtIf c))) c vid with
      h | ⟨v, h | ⟨pid, h⟩⟩ <;> rw [h]
    · exact hd
    · exact hd.setVirtIf c v
    · exact (hd.setVirtIf c v).onStore fun _ _ hq => hq.deactivate _ _
  case lineLevel port v _ =>
    have hlt := irq_lt_of_present (hport port v (.inl rfl))
    exact hs.onStore fun irq h hq => hq.lineLevelStore (by omega) _ _
  case lineEdge port v _ =>
    have hlt := irq_lt_of_present (hport port v (.inr rfl))
    exact hs.onStore fun irq h hq => hq.lineEdgeStore (by omega) _ _ _
  case reset => exact (State.UnimplementedQuiet.resetWith s.params).congr rfl rfl rfl rfl rfl

/-- Not by `step_keeps`, which forgets that the instruction was decoded: the line event of an absent port would wake its
unimplemented ID (R170, R434). -/
theorem State.UnimplementedQuiet.step {s t : State} (hs : s.UnimplementedQuiet) (h : step s = .next t) :
    t.UnimplementedQuiet := by
  rcases step_cases h with ⟨-, rfl⟩ | ⟨r, rest, i, -, hd, he⟩
  · exact hs
  · have hport := portPresent_of_decode hd
    have hin : State.UnimplementedQuiet { s with inbox := rest } := hs.congr rfl rfl rfl rfl rfl
    obtain ⟨u, resp, diag, hu, ho⟩ := exec_effect i (effectCpu i { s with inbox := rest }) { s with inbox := rest }
      (fun init hi => by simp only [effectCpu, hi])
    have huq : u.UnimplementedQuiet := by
      rcases ho with rfl | ⟨v, hv, rfl⟩ | ⟨-, -, hv⟩
      · exact hin
      · exact (State.UnimplementedQuiet.effect hv hport hin).update
      · exact State.UnimplementedQuiet.effect hv hport hin
    rw [hu] at he
    cases he
    exact huq.congr rfl rfl rfl rfl rfl

/-- Settles O54: two of the invariants by `step_keeps`, since every effect keeps them, and the invariant of the
unimplemented IDs by its own step lemma, since it needs the ports of line events to be present. -/
theorem stepKeepsUnusedAndIdleQuiet : Obligations.StepKeepsUnusedAndIdleQuiet := by
  refine ⟨fun s t => ?_, fun s t hs h => hs.step h, fun s t => ?_⟩
  · exact step_keeps State.UnconnectedQuiet (fun _ _ _ hs => hs) (fun _ _ hs => hs) (fun _ hs => hs.update)
      (fun _ _ _ _ h hs => hs.effect h) s t
  · exact step_keeps State.IdleWhenEmpty (fun _ _ _ hs => hs) (fun _ _ hs => hs) (fun _ hs => hs)
      (fun _ _ _ _ h hs => hs.effect h) s t

end Sys2Proof.Machine
end

section
/-! SUPPORT. State (10_state.md): what reset leaves at each accessor, what an instruction can make of the virtual
interfaces, and what it can make of the active and signaled masks. -/

namespace Sys2Proof.Machine

/-! ## Reset, accessor by accessor (R31 to R47, R480) -/

@[simp] theorem State.resetWith_cpuIf (p : Params) (c : Cpu) : (State.resetWith p).cpuIf c = CpuIf.reset :=
  Vector.getElem_replicate c.isLt

@[simp] theorem State.resetWith_virtIf (p : Params) (c : Cpu) : (State.resetWith p).virtIf c = VirtIf.reset :=
  Vector.getElem_replicate c.isLt

@[simp] theorem State.resetWith_arbOut (p : Params) (c : Cpu) : (State.resetWith p).arbOut c = ArbOut.reset :=
  Vector.getElem_replicate c.isLt

@[simp] theorem State.resetWith_sgiSources (p : Params) (c : Cpu) (i : Nat) :
    (State.resetWith p).sgiSources c i = 0#8 := bankGet_replicate c i

@[simp] theorem State.resetWith_prio (p : Params) (irq : Nat) (c : Cpu) : (State.resetWith p).prio irq c = 0#8 := by
  rw [State.prio]
  split_ifs
  · exact bankGet_replicate c irq
  · exact tabGet_replicate (irq - nPriv)

@[simp] theorem State.resetWith_targets (p : Params) (irq : Nat) : (State.resetWith p).targets irq = 0#8 :=
  tabGet_replicate (irq - nPriv)

@[simp] theorem VirtIf.reset_listReg (i : LrIx) : VirtIf.reset.listReg i = ListReg.reset :=
  Vector.getElem_replicate i.isLt

/-- The SGIs are hard-wired EDGE, and every other ID is LEVEL (R32). -/
theorem Store.reset_triggerOf (irq : Irq) : Store.reset.triggerOf irq.val = if irq.val < 16 then .edge else .level := by
  have hlt : irq.val - 16 < 496 := by omega
  rw [Store.triggerOf]
  split_ifs
  · rfl
  · rw [Store.reset, Vector.getElem?_replicate, if_pos hlt]
    rfl

/-- Settles O12, accessor by accessor. -/
theorem resetLeavesSpecValues : Obligations.ResetLeavesSpecValues := by
  intro p
  refine ⟨fun irq => ?_, rfl, fun c i => State.resetWith_sgiSources p c i.val, State.resetWith_cpuIf p,
    fun c i => ?_, fun c => ?_, State.resetWith_arbOut p⟩
  · have hmask := maskAt_replicate irq.val
    exact ⟨hmask, hmask, hmask, hmask, hmask, Store.reset_triggerOf irq, State.resetWith_prio p irq.val,
      fun _ => State.resetWith_targets p irq.val⟩
  · rw [State.resetWith_virtIf, VirtIf.reset_listReg]
    rfl
  · rw [State.resetWith_virtIf]
    exact ⟨rfl, rfl, rfl, rfl, rfl, rfl, rfl⟩

/-! ## What an effect makes of the virtual interfaces -/

/-- Everything an instruction can make of one virtual interface, under the APR_SELECT parameter `sel`. -/
inductive VirtualChange (sel : AprSelect) (v : VirtIf) : VirtIf → Prop where
  /-- Nothing, or a plain register is written (R321, R326, R361 to R363). -/
  | register (v' : VirtIf) (hlr : v'.lr = v.lr) (hapr : v'.apr = v.apr) (hrpr : v'.rpr = v.rpr) : VirtualChange sel v v'
  /-- A GICH_APR write (R330). -/
  | apr (data : Word) : VirtualChange sel v { v with apr := data, rpr := aprPrio sel data }
  /-- A GICH_LR write (R322). -/
  | listReg (j : LrIx) (data : Word) : VirtualChange sel v (v.setListReg j (listRegOfWord data))
  /-- A virtual acknowledge (R366). -/
  | take (j : LrIx) : VirtualChange sel v (takeVirtual sel v j)
  /-- A virtual end of interrupt that finds no list register (R370, R371). -/
  | drop : VirtualChange sel v (virtualDrop sel v)
  /-- A virtual end of interrupt that deactivates list register `j` (R370 to R373). -/
  | dropAndEnd (j : LrIx) :
      VirtualChange sel v ((virtualDrop sel v).setListReg j { v.listReg j with active := false })
  /-- Reset (R480). -/
  | reset (v' : VirtIf) (hreset : v' = VirtIf.reset) : VirtualChange sel v v'

theorem VirtualChange.refl (sel : AprSelect) (v : VirtIf) : VirtualChange sel v v := .register v rfl rfl rfl

/-- A write of the virtual interface of CPU `c` is a change of that one. -/
theorem VirtualChange.setVirtIf {sel : AprSelect} {s : State} {c : Cpu} {v : VirtIf}
    (h : VirtualChange sel (s.virtIf c) v) (d : Cpu) : VirtualChange sel (s.virtIf d) ((s.setVirtIf c v).virtIf d) := by
  rw [State.setVirtIf_virtIf]
  split_ifs with hd
  · rw [hd]
    exact h
  · exact .refl sel _

/-- What a virtual end of interrupt makes of its CPU's virtual interface (R370 to R373). -/
theorem virtualEnd_virtIf (sel : AprSelect) (s : State) (c : Cpu) (vid : BitVec 10) :
    ∃ v : VirtIf, VirtualChange sel (s.virtIf c) v ∧ ∀ d : Cpu,
      (virtualDeactivate (s.setVirtIf c (virtualDrop sel (s.virtIf c))) c vid).1.virtIf d =
        (s.setVirtIf c v).virtIf d := by
  rcases virtualDeactivate_cases (s.setVirtIf c (virtualDrop sel (s.virtIf c))) c vid with
    ⟨-, h⟩ | ⟨i, e, -, rfl, hend⟩
  · exact ⟨_, .drop, fun d => by rw [h]⟩
  · refine ⟨_, .dropAndEnd i, fun d => ?_⟩
    rw [State.setVirtIf_virtIf_self] at hend
    rcases hend with ⟨-, -, -, h⟩ | ⟨-, -, h⟩ | ⟨-, h⟩ <;> rw [h]
    all_goals
      simp only [State.onStore_virtIf, State.setVirtIf_virtIf]
      split_ifs <;> rfl

/-- The inversion of an effect, for the virtual interfaces. -/
theorem Effect.virtualChange {i : Instr} {c : Cpu} {s u : State} (h : Effect i c s u) (d : Cpu) :
    VirtualChange s.params.aprSelect (s.virtIf d) (u.virtIf d) := by
  cases h
  case prioPriv => rw [forBytes_setPrioPriv_eq]; exact .refl _ _
  case prioSpi => rw [forBytes_setPrioSpi_eq]; exact .refl _ _
  case targets => rw [forBytes_setTargets_eq]; exact .refl _ _
  case sgir => rw [raiseSgi_eq]; exact .refl _ _
  case sgiSources => rw [forBytes_writeSgiSources_eq]; exact .refl _ _
  case take => rw [takeInterrupt_eq]; exact .refl _ _
  case virtualRegister v _ hlr hapr hrpr => exact VirtualChange.setVirtIf (.register v hlr hapr hrpr) d
  case apr data => exact VirtualChange.setVirtIf (.apr data) d
  case listReg j _ data => exact VirtualChange.setVirtIf (.listReg j data) d
  case takeVirtual j _ => exact VirtualChange.setVirtIf (.take j) d
  case endVirtual vid _ _ =>
    obtain ⟨v, hv, hd⟩ := virtualEnd_virtIf s.params.aprSelect s c vid
    rw [hd]
    exact hv.setVirtIf d
  case reset => exact .reset _ (State.resetWith_virtIf s.params d)
  all_goals exact .refl _ _

/-! ## Faithful list registers (R44, R136, R137, R322, R323) -/

/-- The list register is what its raw word says, but for the live pending and active bits. -/
def ListReg.Faithful (e : ListReg) : Prop := e = { listRegOfWord e.raw with pending := e.pending, active := e.active }

theorem ListReg.faithful_ofWord (data : Word) : (listRegOfWord data).Faithful := rfl

theorem ListReg.faithful_reset : ListReg.reset.Faithful := rfl

/-- The live bits are free. -/
theorem ListReg.Faithful.withLive {e : ListReg} (h : e.Faithful) (pending active : Bool) :
    ListReg.Faithful { e with pending := pending, active := active } := by
  have hlive := congrArg (fun x : ListReg => { x with pending := pending, active := active }) h
  exact hlive

/-- All four list registers are faithful. -/
def VirtIf.ListRegsFaithful (v : VirtIf) : Prop := ∀ i : LrIx, (v.listReg i).Faithful

theorem State.listRegsFaithful_iff (s : State) : s.ListRegsFaithful ↔ ∀ c : Cpu, (s.virtIf c).ListRegsFaithful :=
  Iff.rfl

theorem VirtIf.ListRegsFaithful.setListReg {v : VirtIf} (hv : v.ListRegsFaithful) (j : LrIx) {e : ListReg}
    (he : e.Faithful) : (v.setListReg j e).ListRegsFaithful := by
  intro i
  rw [VirtIf.setListReg_listReg]
  split_ifs
  · exact he
  · exact hv i

theorem VirtIf.ListRegsFaithful.congr {v v' : VirtIf} (hv : v.ListRegsFaithful) (hlr : v'.lr = v.lr) :
    v'.ListRegsFaithful := by
  simp only [VirtIf.ListRegsFaithful, VirtIf.listReg, hlr]
  exact hv

/-- A list register is written from a word, or its live bits alone change. -/
theorem VirtIf.ListRegsFaithful.change {sel : AprSelect} {v v' : VirtIf} (hv : v.ListRegsFaithful)
    (h : VirtualChange sel v v') : v'.ListRegsFaithful := by
  cases h with
  | register _ hlr => exact hv.congr hlr
  | apr => exact hv.congr rfl
  | listReg j data => exact hv.setListReg j (ListReg.faithful_ofWord data)
  | take j => exact (hv.setListReg j ((hv j).withLive false true)).congr rfl
  | drop => exact hv.congr rfl
  | dropAndEnd j => exact (hv.setListReg j ((hv j).withLive (v.listReg j).pending false)).congr rfl
  | reset _ hreset =>
    intro i
    rw [hreset, VirtIf.reset_listReg]
    exact ListReg.faithful_reset

theorem State.ListRegsFaithful.effect {i : Instr} {c : Cpu} {s u : State} (h : Effect i c s u)
    (hs : s.ListRegsFaithful) : u.ListRegsFaithful := by
  rw [State.listRegsFaithful_iff] at hs ⊢
  exact fun d => (hs d).change (h.virtualChange d)

/-! ## The virtual running priority (R330, R333, R366, R370) -/

/-- The virtual running priority is the one `apr` encodes: whatever writes `apr` recomputes it. -/
theorem VirtualChange.rpr_eq {sel : AprSelect} {v v' : VirtIf} (h : VirtualChange sel v v')
    (hv : v.rpr = aprPrio sel v.apr) : v'.rpr = aprPrio sel v'.apr := by
  cases h with
  | register _ _ hapr hrpr => rw [hrpr, hapr, hv]
  | listReg => exact hv
  | reset _ hreset => rw [hreset]; exact (aprPrio_zero sel).symm
  | apr | take | drop | dropAndEnd => rfl

theorem State.VirtualPriorityFaithful.effect {i : Instr} {c : Cpu} {s u : State} (h : Effect i c s u)
    (hs : s.VirtualPriorityFaithful) : u.VirtualPriorityFaithful := by
  obtain ⟨hparams, -⟩ := h.params_arbOut
  intro d
  rw [hparams]
  exact (h.virtualChange d).rpr_eq (hs d)

/-- Settles O53: both invariants speak of one virtual interface at a time, and every `VirtualChange` keeps them. -/
theorem stepKeepsVirtualStateFaithful : Obligations.StepKeepsVirtualStateFaithful := by
  refine ⟨fun s t => ?_, fun s t => ?_⟩
  · exact step_keeps State.ListRegsFaithful (fun _ _ _ hs => hs) (fun _ _ hs => hs) (fun _ hs => hs)
      (fun _ _ _ _ h hs => hs.effect h) s t
  · exact step_keeps State.VirtualPriorityFaithful (fun _ _ _ hs => hs) (fun _ _ hs => hs) (fun _ hs => hs)
      (fun _ _ _ _ h hs => hs.effect h) s t

/-! ## What an effect makes of the active and signaled masks (R35) -/

@[simp] theorem Store.deactivate_active (st : Store) (irq : Nat) (m : CpuMask) :
    (st.deactivate irq m).active = setMask st.active irq false m := by simp [Store.deactivate]

@[simp] theorem Store.deactivate_signaled (st : Store) (irq : Nat) (m : CpuMask) :
    (st.deactivate irq m).signaled = setMask st.signaled irq false m := by simp [Store.deactivate]

/-- Everything instruction `i` can make of the active and signaled masks of the store `st`. -/
inductive ActiveChange (i : Instr) (st st' : Store) : Prop where
  /-- Nothing. -/
  | keep (hactive : st'.active = st.active) (hsignaled : st'.signaled = st.signaled)
  /-- The acknowledge sets (R275). -/
  | take (hi : ∃ init : Nat, i = .rdGiccIar init) (irq : Nat) (m : CpuMask)
      (hactive : st'.active = setMask st.active irq true m) (hsignaled : st'.signaled = setMask st.signaled irq true m)
  /-- An end of interrupt, physical or virtual, clears (R284, R372). -/
  | deactivate (hi : ∃ (init : Nat) (data : Word), i = .wrGiccEoir init data ∨ i = .wrGicvEoir init data) (irq : Nat)
      (m : CpuMask) (hactive : st'.active = setMask st.active irq false m)
      (hsignaled : st'.signaled = setMask st.signaled irq false m)
  /-- An ICACTIVER write clears active bits alone (R222). -/
  | clearActive (hi : ∃ (word init : Nat) (data : Word),
        i = .wrGicdIcactiver0 init data ∨ i = .wrGicdIcactiverSpi word init data) (p : Params) (word : Nat) (data : Word)
      (c : Cpu) (hst : st' = forWordIds p word data (deactId c) st)
  /-- Reset clears (R480). -/
  | reset (hi : i = .reset) (hst : st' = Store.reset)

/-- The inversion of an effect, for the active and signaled masks. -/
theorem Effect.activeChange {i : Instr} {c : Cpu} {s u : State} (h : Effect i c s u) :
    ActiveChange i s.store u.store := by
  cases h
  case enable => rw [writeWord, State.onStore_store, forWordIds_enableId_eq]; exact .keep rfl rfl
  case disable => rw [writeWord, State.onStore_store, forWordIds_disableId_eq]; exact .keep rfl rfl
  case pend => rw [writeWord, State.onStore_store, forWordIds_pendId_eq]; exact .keep rfl rfl
  case clearActive word init data hi =>
    refine .clearActive ⟨word, init, data, ?_⟩ s.params word data c rfl
    rcases hi with ⟨-, hi⟩ | hi
    · exact .inl hi
    · exact .inr hi
  case prioPriv => rw [forBytes_setPrioPriv_eq]; exact .keep rfl rfl
  case prioSpi => rw [forBytes_setPrioSpi_eq]; exact .keep rfl rfl
  case targets => rw [forBytes_setTargets_eq]; exact .keep rfl rfl
  case icfgr => rw [writeIcfgr_eq]; exact .keep rfl rfl
  case sgir => rw [raiseSgi_eq]; exact .keep rfl rfl
  case sgiSources => rw [forBytes_writeSgiSources_eq]; exact .keep rfl rfl
  case take init irq _ =>
    rw [takeInterrupt_eq]
    exact .take ⟨init, rfl⟩ irq.val (maskFor irq.val c) rfl rfl
  case endInOrder init data irq rest _ _ =>
    exact .deactivate ⟨init, data, .inl rfl⟩ irq.val (maskFor irq.val c) (Store.deactivate_active ..)
      (Store.deactivate_signaled ..)
  case endOutOfOrder init data irq _ _ _ _ _ _ =>
    exact .deactivate ⟨init, data, .inl rfl⟩ irq.val (maskFor irq.val c) (Store.deactivate_active ..)
      (Store.deactivate_signaled ..)
  case endVirtual init data vid _ _ =>
    rcases virtualDeactivate_effect (s.setVirtIf c (virtualDrop s.params.aprSelect (s.virtIf c))) c vid with
      h | ⟨v, h | ⟨pid, h⟩⟩ <;> rw [h]
    · exact .keep rfl rfl
    · exact .keep rfl rfl
    · exact .deactivate ⟨init, data, .inr rfl⟩ pid (maskFor pid c) (Store.deactivate_active ..)
        (Store.deactivate_signaled ..)
  case lineLevel => rw [State.onStore_store, lineLevelStore_eq]; exact .keep rfl rfl
  case lineEdge => rw [State.onStore_store, lineEdgeStore_eq]; exact .keep rfl rfl
  case reset => exact .reset rfl rfl
  all_goals exact .keep rfl rfl

/-- The inversion of `exec`, for the active and signaled masks. -/
theorem exec_activeChange {i : Instr} {s t : State} (h : exec i s = .next t) : ActiveChange i s.store t.store := by
  obtain ⟨u, resp, diag, hu, ho⟩ := exec_effect i (effectCpu i s) s (fun init hi => by simp only [effectCpu, hi])
  rw [hu] at h
  cases h
  rcases ho with rfl | ⟨v, hv, rfl⟩ | ⟨-, -, hv⟩
  · exact .keep rfl rfl
  · exact hv.activeChange
  · exact hv.activeChange

/-- Every bit set in a mask of `t` is set in that of `t'`. -/
def BitsWithin (t t' : Vector CpuMask 512) : Prop :=
  ∀ (irq : Irq) (c : Cpu), (maskAt t irq.val).getLsbD c.val = true → (maskAt t' irq.val).getLsbD c.val = true

theorem BitsWithin.of_eq {t t' : Vector CpuMask 512} (h : t = t') : BitsWithin t t' := by
  subst h
  exact fun _ _ hb => hb

theorem bitsWithin_setMask_true (t : Vector CpuMask 512) (irq : Nat) (m : CpuMask) :
    BitsWithin t (setMask t irq true m) := by
  intro j c hb
  rw [setMask_getLsbD]
  split_ifs
  · rfl
  · exact hb

theorem setMask_false_bitsWithin (t : Vector CpuMask 512) (irq : Nat) (m : CpuMask) :
    BitsWithin (setMask t irq false m) t := by
  intro j c hb
  rw [setMask_getLsbD] at hb
  split_ifs at hb
  exact hb

theorem replicate_zero_bitsWithin (t : Vector CpuMask 512) : BitsWithin (Vector.replicate 512 0#8) t := by
  intro irq c hb
  rw [maskAt_replicate, BitVec.getLsbD_zero] at hb
  cases hb

theorem forWordIds_deactId_signaled (p : Params) (word : Nat) (data : Word) (c : Cpu) (st : Store) :
    (forWordIds p word data (deactId c) st).signaled = st.signaled := by rw [forWordIds_deactId_eq]

theorem forWordIds_deactId_bitsWithin (p : Params) (word : Nat) (data : Word) (c : Cpu) (st : Store) :
    BitsWithin (forWordIds p word data (deactId c) st).active st.active :=
  forWordIds_inv p word data (deactId c) (fun st' => BitsWithin st'.active st.active)
    (fun st' j _ hst' irq d hb => hst' irq d (setMask_false_bitsWithin st'.active j _ irq d hb)) st
    (fun _ _ hb => hb)

namespace ActiveChange

variable {i : Instr} {st st' : Store}

/-- Nothing but the acknowledge sets a bit. -/
theorem sets_nothing (h : ActiveChange i st st') (hiar : ∀ init : Nat, i ≠ .rdGiccIar init) :
    BitsWithin st'.active st.active ∧ BitsWithin st'.signaled st.signaled := by
  cases h with
  | keep ha hg => exact ⟨.of_eq ha, .of_eq hg⟩
  | take hi =>
    obtain ⟨init, hi⟩ := hi
    exact absurd hi (hiar init)
  | deactivate _ irq m ha hg =>
    rw [ha, hg]
    exact ⟨setMask_false_bitsWithin _ _ _, setMask_false_bitsWithin _ _ _⟩
  | clearActive _ p word data c hst =>
    rw [hst]
    exact ⟨forWordIds_deactId_bitsWithin p word data c st, .of_eq (forWordIds_deactId_signaled p word data c st)⟩
  | reset _ hst =>
    rw [hst]
    exact ⟨replicate_zero_bitsWithin _, replicate_zero_bitsWithin _⟩

/-- Nothing but an end of interrupt, an ICACTIVER write and reset clears a bit, and the ICACTIVER writes clear no
signaled bit. -/
theorem clears_nothing (h : ActiveChange i st st') (hreset : i ≠ .reset)
    (heoi : ∀ (init : Nat) (data : Word), i ≠ .wrGiccEoir init data ∧ i ≠ .wrGicvEoir init data) :
    BitsWithin st.signaled st'.signaled ∧ ((∀ (word init : Nat) (data : Word),
      i ≠ .wrGicdIcactiver0 init data ∧ i ≠ .wrGicdIcactiverSpi word init data) → BitsWithin st.active st'.active) := by
  cases h with
  | keep ha hg => exact ⟨.of_eq hg.symm, fun _ => .of_eq ha.symm⟩
  | take _ irq m ha hg =>
    rw [ha, hg]
    exact ⟨bitsWithin_setMask_true _ _ _, fun _ => bitsWithin_setMask_true _ _ _⟩
  | deactivate hi =>
    obtain ⟨init, data, hi⟩ := hi
    obtain ⟨hphysical, hvirtual⟩ := heoi init data
    exact absurd hi (not_or.mpr ⟨hphysical, hvirtual⟩)
  | clearActive hi p word data c hst =>
    rw [hst]
    refine ⟨.of_eq (forWordIds_deactId_signaled p word data c st).symm, fun hica => ?_⟩
    obtain ⟨word, init, data, hi⟩ := hi
    obtain ⟨hpriv, hspi⟩ := hica word init data
    exact absurd hi (not_or.mpr ⟨hpriv, hspi⟩)
  | reset hi => exact absurd hi hreset

end ActiveChange

/-- Settles O57: both halves are read off the inversion `exec_activeChange`. -/
theorem onlyAcknowledgeSetsActive : Obligations.OnlyAcknowledgeSetsActive := by
  intro s t i irq c h
  have hchange := exec_activeChange h
  refine ⟨fun hiar => ?_, fun hreset heoi => ?_⟩
  · obtain ⟨ha, hg⟩ := hchange.sets_nothing hiar
    exact ⟨ha irq c, hg irq c⟩
  · obtain ⟨hg, ha⟩ := hchange.clears_nothing hreset heoi
    exact ⟨hg irq c, fun hica => ha hica irq c⟩

end Sys2Proof.Machine
end

section
/-! SUPPORT. Memory (20_memory.md): the two forms of the opcode table agree on which accesses are access errors (R86,
R112), what decodes is well-formed and re-encodes to its request (R81), and an access error changes no state (R86). -/

namespace Sys2Proof

/-! ## The access a row takes (R112), by the fields of its key (R110) -/

/-- Keys with the same three fields are the same key (R110). -/
theorem key_ext {a b : BitVec 16} (hw : keyIface a = keyIface b) (hd : keyDir a = keyDir b)
    (ho : keyOff a = keyOff b) : a = b := by
  rw [← mkKey_fields a, hw, hd, ho, mkKey_fields]

/-- A window pattern selects the keys of its interface and direction. -/
theorem key_window_eq_iff {key pattern : BitVec 16} (hp : keyOff pattern = 0) :
    key &&& 0xe000#16 = pattern ↔ keyIface key = keyIface pattern ∧ keyDir key = keyDir pattern := by
  rw [key_window]
  constructor
  · rintro rfl
    exact ⟨(keyIface_mkKey _ _ 0 (by decide)).symm, (keyDir_mkKey _ _ 0 (by decide)).symm⟩
  · rintro ⟨hw, hd⟩
    rw [hw, hd, ← hp, mkKey_fields]

/-- A row's pattern is a window with the offset left free, or one whole key, which is then its only offset. -/
theorem rows_shape : ∀ r ∈ rows, (r.mask = 0xe000#16 ∧ keyOff r.pattern = 0) ∨
    (r.mask = 0xffff#16 ∧ keyOff r.pattern = r.lo ∧ r.hi = r.lo) := by
  decide +kernel

/-- The four conditions of R112, with mask and pattern read as interface and direction. -/
theorem accepts_iff_fields {r : Row} (hr : r ∈ rows) (key : BitVec 16) (n : Width) :
    r.accepts key n = true ↔ (keyIface key = keyIface r.pattern ∧ keyDir key = keyDir r.pattern) ∧
      r.lo ≤ keyOff key ∧ keyOff key ≤ r.hi ∧ n ∈ r.widths ∧ keyOff key % n.bytes = 0 := by
  rw [accepts_iff]
  rcases rows_shape r hr with ⟨hmask, hoff⟩ | ⟨hmask, hoff, hhi⟩
  · rw [hmask, key_window_eq_iff hoff]
  · have hall : key &&& r.mask = key := by rw [hmask]; exact BitVec.and_allOnes
    rw [hall]
    constructor
    · rintro ⟨rfl, h⟩
      exact ⟨⟨rfl, rfl⟩, h⟩
    · rintro ⟨⟨hw, hd⟩, hlo, hle, h⟩
      exact ⟨key_ext hw hd (by omega), hlo, hle, h⟩

/-! ## Map lines (R120 to R123) -/

/-- The directions a map line allows (R86). -/
def MapLine.permits (l : MapLine) : Dir → Bool
  | .read => l.readable
  | .write => l.writable

/-- The access widths of a map line (R84). -/
def MapLine.widths (l : MapLine) : List Width := if l.bytewise then [.w1, .w2, .w4] else [.w4]

/-- The number of bytes from one accessible offset of a map line to the next (R84, R85). -/
def MapLine.grain (l : MapLine) : Nat := if l.bytewise then 1 else 4

/-- The map line holds the byte at an offset of a window. -/
abbrev MapLine.HoldsByte (l : MapLine) (w : Iface) (off : Nat) : Prop := l.iface = w ∧ l.lo ≤ off ∧ off ≤ l.last

/-- The row takes part of the map line's offsets, in a direction and at the widths the map line allows. -/
abbrev MapLine.HoldsRow (l : MapLine) (r : Row) : Prop :=
  l.iface = keyIface r.pattern ∧ l.permits (keyDir r.pattern) = true ∧ r.widths = l.widths ∧
    l.lo ≤ r.lo ∧ r.hi ≤ l.last

/-- Two map lines of one window have bytes apart. -/
abbrev MapLine.Apart (l m : MapLine) : Prop := l.iface ≠ m.iface ∨ l.last < m.lo ∨ m.last < l.lo

/-- The register maps do not overlap (R120 to R123). -/
theorem registerMap_apart : registerMap.Pairwise MapLine.Apart := by decide +kernel

theorem mapLineAt_eq_find (w : Iface) (off : Nat) :
    mapLineAt w off = registerMap.find? (fun l => decide (l.HoldsByte w off)) := by
  simp only [mapLineAt, Bool.decide_and, Bool.and_assoc]

/-- A byte is in at most one map line. -/
theorem mapLine_unique {l m : MapLine} (hl : l ∈ registerMap) (hm : m ∈ registerMap) {w : Iface} {off : Nat}
    (hlw : l.HoldsByte w off) (hmw : m.HoldsByte w off) : l = m := by
  have hsymm : Std.Symm MapLine.Apart := ⟨fun _ _ h => h.imp Ne.symm Or.symm⟩
  obtain ⟨hwl, hlo, hlast⟩ := hlw
  obtain ⟨hwm, hlo', hlast'⟩ := hmw
  by_contra hne
  rcases registerMap_apart.forall hl hm hne with h | h | h
  · exact h (hwl.trans hwm.symm)
  · omega
  · omega

theorem MapLine.permits_iff (l : MapLine) (d : Dir) :
    l.permits d = true ↔ ¬(d = .write ∧ l.writable = false) ∧ ¬(d = .read ∧ l.readable = false) := by
  cases d <;> simp [permits]

theorem MapLine.mem_widths_iff (l : MapLine) (n : Width) : n ∈ l.widths ↔ ¬(n ≠ .w4 ∧ l.bytewise = false) := by
  rw [widths]
  cases l.bytewise
  · simp
  · cases n <;> simp

theorem ite_some_eq_none_iff {α : Type} {c : Prop} [Decidable c] {a : α} {e : Option α} :
    (if c then some a else e) = none ↔ ¬c ∧ e = none := by
  split_ifs with h <;> simp [h]

/-- None of the five conditions of R86 holds: a map line holds the offset and allows the access. -/
theorem accessErrorCause_eq_none_iff (key : BitVec 16) (n : Width) :
    accessErrorCause key n = none ↔ ∃ l ∈ registerMap, l.HoldsByte (keyIface key) (keyOff key) ∧
      l.permits (keyDir key) = true ∧ n ∈ l.widths ∧ keyOff key % n.bytes = 0 := by
  rw [accessErrorCause]
  cases hl : mapLineAt (keyIface key) (keyOff key) with
  | none =>
    rw [mapLineAt_eq_find, List.find?_eq_none] at hl
    refine iff_of_false (Option.some_ne_none _) ?_
    rintro ⟨l, hmem, hbyte, -⟩
    exact hl l hmem (decide_eq_true hbyte)
  | some l =>
    rw [mapLineAt_eq_find] at hl
    have hmem := List.mem_of_find?_eq_some hl
    have hbyte := of_decide_eq_true (List.find?_some (p := fun l => decide (MapLine.HoldsByte l _ _)) hl)
    calc _ ↔ l.permits (keyDir key) = true ∧ n ∈ l.widths ∧ keyOff key % n.bytes = 0 := by
          rw [l.permits_iff, l.mem_widths_iff]
          simp only [ite_some_eq_none_iff, Decidable.not_not, and_true, and_assoc]
      _ ↔ _ := by
          refine ⟨fun h => ⟨l, hmem, hbyte, h⟩, ?_⟩
          rintro ⟨m, hm, hmbyte, h⟩
          rwa [mapLine_unique hmem hm hbyte hmbyte]

/-! ## The rows of a map line -/

/-- Every row takes part of one map line. -/
theorem rows_within_map : ∀ r ∈ rows, ∃ l ∈ registerMap, l.HoldsRow r := by decide +kernel

/-- In turn, the rows take the offsets from `next` to `last`, `grain` apart, with none left between them. -/
def tiles (grain last : Nat) : Nat → List Row → Bool
  | next, [] => decide (last < next)
  | next, r :: rs => decide (r.lo ≤ next) && decide (grain ∣ r.hi) && tiles grain last (r.hi + grain) rs

/-- Rows that leave no offset between them take every one, `grain` apart. -/
theorem exists_row_of_tiles {grain last off : Nat} (hg : grain ∣ off) (hlast : off ≤ last) :
    ∀ (rs : List Row) (next : Nat), tiles grain last next rs = true → next ≤ off →
      ∃ r ∈ rs, r.lo ≤ off ∧ off ≤ r.hi
  | [], next, h, hnext => by
    have := of_decide_eq_true h
    omega
  | r :: rs, next, h, hnext => by
    simp only [tiles, Bool.and_eq_true, decide_eq_true_eq] at h
    obtain ⟨⟨hlo, hhi⟩, hrest⟩ := h
    by_cases hoff : off ≤ r.hi
    · exact ⟨r, List.mem_cons_self, by omega, hoff⟩
    · have := Nat.le_of_dvd (by omega) (Nat.dvd_sub hg hhi)
      obtain ⟨r', hr', hle⟩ := exists_row_of_tiles hg hlast rs _ hrest (by omega)
      exact ⟨r', List.mem_cons_of_mem r hr', hle⟩

/-- The rows of one direction in a map line. -/
def MapLine.rowsOf (l : MapLine) (d : Dir) : List Row :=
  rows.filter fun r => decide (l.HoldsRow r ∧ keyDir r.pattern = d)

/-- The rows of each direction a map line allows take all its offsets. -/
theorem registerMap_tiled : ∀ l ∈ registerMap, ∀ d ∈ [Dir.read, Dir.write], l.permits d = true →
    tiles l.grain l.last l.lo (l.rowsOf d) = true := by
  decide +kernel

/-- The accessible offsets of a map line, `grain` apart, are those aligned for a width the line takes (R84, R85). -/
theorem MapLine.grain_dvd {l : MapLine} {n : Width} {off : Nat} (hn : n ∈ l.widths) (ha : off % n.bytes = 0) :
    l.grain ∣ off := by
  rw [grain]
  rw [widths] at hn
  split_ifs at hn ⊢
  · exact one_dvd off
  · cases List.mem_singleton.mp hn
    exact Nat.dvd_of_mod_eq_zero ha

/-- The register rows take exactly the accesses that the register maps allow (R86, R112). -/
theorem exists_row_accepts_iff (key : BitVec 16) (n : Width) :
    (∃ r ∈ rows, r.accepts key n = true) ↔ accessErrorCause key n = none := by
  rw [accessErrorCause_eq_none_iff]
  constructor
  · rintro ⟨r, hr, h⟩
    obtain ⟨⟨hw, hd⟩, hlo, hhi, hn, ha⟩ := (accepts_iff_fields hr key n).mp h
    obtain ⟨l, hl, hiface, hpermits, hwidths, hfirst, hlast⟩ := rows_within_map r hr
    exact ⟨l, hl, ⟨hiface.trans hw.symm, by omega, by omega⟩, hd ▸ hpermits, hwidths ▸ hn, ha⟩
  · rintro ⟨l, hl, ⟨hiface, hlo, hlast⟩, hpermits, hn, ha⟩
    have hdir : keyDir key ∈ [Dir.read, Dir.write] := by cases keyDir key <;> decide
    obtain ⟨r, hr, hfirst, hhi⟩ := exists_row_of_tiles (MapLine.grain_dvd hn ha) hlast _ _
      (registerMap_tiled l hl _ hdir hpermits) hlo
    obtain ⟨hrows, hheld⟩ := List.mem_filter.mp hr
    obtain ⟨⟨hrw, -, hwidths, -, -⟩, hrd⟩ := of_decide_eq_true hheld
    exact ⟨r, hrows, (accepts_iff_fields hrows key n).mpr
      ⟨⟨hiface.symm.trans hrw, hrd.symm⟩, hfirst, hhi, hwidths ▸ hn, ha⟩⟩

/-- No row takes an access exactly when it has a cause of access error (R86, R112). -/
theorem selectRow_eq_none_iff (key : BitVec 16) (n : Width) :
    selectRow key n = none ↔ (accessErrorCause key n).isSome = true := by
  rw [Option.isSome_iff_ne_none, Ne, ← exists_row_accepts_iff, selectRow, List.find?_eq_none]
  simp only [not_exists, not_and]

/-- Settles O4: the rows take what the maps allow, so the catch-all takes the rest. -/
theorem catchAllIffAccessErrorCause : Obligations.CatchAllIffAccessErrorCause := selectRow_eq_none_iff

/-! ## What a row builds is well-formed and encodes to the access it took (R81, R110, R112) -/

theorem selectRow_eq_some {key : BitVec 16} {n : Width} {r : Row} (h : selectRow key n = some r) :
    r ∈ rows ∧ r.accepts key n = true :=
  ⟨List.mem_of_find?_eq_some h, List.find?_some (p := fun r : Row => r.accepts key n) h⟩

/-- The instruction is well-formed and encodes to the access. -/
abbrev Instr.StandsFor (i : Instr) (key : BitVec 16) (n : Width) (init : Nat) (data : Word) : Prop :=
  (∀ p : Params, i.wf p = true) ∧ encode i = .bus key n init data

/-- What the row builds of an access it takes stands for that access, with only the data it carries. -/
def Row.Sound (r : Row) : Prop :=
  ∀ (key : BitVec 16) (n : Width) (init : Nat) (data : Word), r.accepts key n = true →
    (r.build (keyOff key) n init (laneData key n data)).StandsFor key n init (laneData key n data)

theorem laneData_congr {a b : BitVec 16} (h : keyDir a = keyDir b) (n : Width) (data : Word) :
    laneData a n data = laneData b n data := by
  rw [laneData, laneData, h]

theorem dataOk_clip (n : Width) (data : Word) : dataOk n (clip n data) = true := beq_iff_eq.mpr (clip_clip n data)

theorem and_dataOk_clip {b : Bool} {n : Width} {data : Word} (h : b = true) : (b && dataOk n (clip n data)) = true :=
  Bool.and_eq_true_iff.mpr ⟨h, dataOk_clip n data⟩

/-- A key in a pattern's window is the access at its offset there. -/
theorem key_of_window {key pattern : BitVec 16} (hp : keyOff pattern = 0) (h : key &&& 0xe000#16 = pattern) :
    keyDir key = keyDir pattern ∧ key = mkKey (keyIface pattern) (keyDir pattern) (keyOff key) := by
  obtain ⟨hw, hd⟩ := (key_window_eq_iff hp).mp h
  exact ⟨hd, by rw [← hw, ← hd, mkKey_fields]⟩

/-- A register that stands alone takes one key, so its row is sound if its instruction encodes to that key (R84). -/
theorem oneWord_sound {pattern : BitVec 16} {off : Nat} {build : Nat → Word → Instr}
    (h : ∀ (init : Nat) (data : Word),
      (build init (laneData pattern .w4 data)).StandsFor pattern .w4 init (laneData pattern .w4 data)) :
    (oneWord pattern off build).Sound := by
  intro key n init data hacc
  obtain ⟨hkey, -, -, hn, -⟩ := (accepts_iff _ key n).mp hacc
  cases List.mem_singleton.mp hn
  have hkey : key = pattern := BitVec.and_allOnes.symm.trans hkey
  rw [hkey]
  exact h init data

/-- The row of a word array is sound if each word index of its range encodes to the offset `base + 4 * word` that it was
read from (R125, R127). -/
theorem wordArray_sound {pattern : BitVec 16} {base lo hi : Nat} {build : Nat → Nat → Word → Instr}
    (hp : keyOff pattern = 0) (hbase : base ≤ lo ∧ 4 ∣ base)
    (h : ∀ (word init : Nat) (data : Word), wordOk ((lo - base) / 4) ((hi - base) / 4) word = true →
      (build word init (laneData pattern .w4 data)).StandsFor
        (mkKey (keyIface pattern) (keyDir pattern) (base + 4 * word)) .w4 init (laneData pattern .w4 data)) :
    (wordArray pattern base lo hi build).Sound := by
  intro key n init data hacc
  obtain ⟨hkey, hlo, hhi, hn, ha⟩ := (accepts_iff _ key n).mp hacc
  cases List.mem_singleton.mp hn
  obtain ⟨hd, hfields⟩ := key_of_window hp hkey
  have hword : wordOk ((lo - base) / 4) ((hi - base) / 4) ((keyOff key - base) / 4) = true := by
    rw [wordOk, Bool.and_eq_true, decide_eq_true_eq, decide_eq_true_eq]
    exact ⟨Nat.div_le_div_right (Nat.sub_le_sub_right hlo base),
      Nat.div_le_div_right (Nat.sub_le_sub_right hhi base)⟩
  have hoff : base + 4 * ((keyOff key - base) / 4) = keyOff key := by
    change lo ≤ keyOff key at hlo
    change keyOff key % 4 = 0 at ha
    omega
  obtain ⟨hwf, henc⟩ := h _ init data hword
  rw [hoff, ← hfields] at henc
  rw [laneData_congr hd]
  exact ⟨hwf, henc⟩

/-- The row of a byte array is sound if each aligned first byte of its range encodes to the offset `base + first` that
it was read from (R84, R126). -/
theorem byteArray_sound {pattern : BitVec 16} {base lo hi : Nat} {build : Nat → Width → Nat → Word → Instr}
    (hp : keyOff pattern = 0) (hbase : base ≤ lo ∧ 4 ∣ base)
    (h : ∀ (first : Nat) (n : Width) (init : Nat) (data : Word), bytesOk (lo - base) (hi - base) first n = true →
      (build first n init (laneData pattern n data)).StandsFor
        (mkKey (keyIface pattern) (keyDir pattern) (base + first)) n init (laneData pattern n data)) :
    (byteArray pattern base lo hi build).Sound := by
  intro key n init data hacc
  obtain ⟨hkey, hlo, hhi, -, ha⟩ := (accepts_iff _ key n).mp hacc
  obtain ⟨hd, hfields⟩ := key_of_window hp hkey
  change lo ≤ keyOff key at hlo
  have halign : (keyOff key - base) % n.bytes = 0 := by
    have hn : n.bytes ∣ 4 := by cases n <;> decide
    exact Nat.mod_eq_zero_of_dvd (Nat.dvd_sub (Nat.dvd_of_mod_eq_zero ha) (hn.trans hbase.2))
  have hbytes : bytesOk (lo - base) (hi - base) (keyOff key - base) n = true := by
    simp only [bytesOk, Bool.and_eq_true, decide_eq_true_eq, beq_iff_eq]
    exact ⟨⟨Nat.sub_le_sub_right hlo base, Nat.sub_le_sub_right hhi base⟩, halign⟩
  obtain ⟨hwf, henc⟩ := h _ n init data hbytes
  rw [Nat.add_sub_of_le (hbase.1.trans hlo), ← hfields] at henc
  rw [laneData_congr hd]
  exact ⟨hwf, henc⟩

/-! ## The rows, in the table's order

The operands of an array's row are in range by its shape's lemma; the data of a byte-array write is besides the clipped
data of its width. -/

theorem distributorRows_sound : ∀ r ∈ distributorRows, r.Sound := by
  simp only [distributorRows, List.forall_mem_cons, List.not_mem_nil, false_implies, implies_true, and_true]
  exact ⟨oneWord_sound fun _ _ => ⟨fun _ => rfl, rfl⟩,
    oneWord_sound fun _ _ => ⟨fun _ => rfl, rfl⟩,
    oneWord_sound fun _ _ => ⟨fun _ => rfl, rfl⟩,
    oneWord_sound fun _ _ => ⟨fun _ => rfl, rfl⟩,
    oneWord_sound fun _ _ => ⟨fun _ => rfl, rfl⟩,
    wordArray_sound rfl (by decide) fun _ _ _ h => ⟨fun _ => h, rfl⟩,
    wordArray_sound rfl (by decide) fun _ _ _ h => ⟨fun _ => h, rfl⟩,
    oneWord_sound fun _ _ => ⟨fun _ => rfl, rfl⟩,
    oneWord_sound fun _ _ => ⟨fun _ => rfl, rfl⟩,
    wordArray_sound rfl (by decide) fun _ _ _ h => ⟨fun _ => h, rfl⟩,
    wordArray_sound rfl (by decide) fun _ _ _ h => ⟨fun _ => h, rfl⟩,
    oneWord_sound fun _ _ => ⟨fun _ => rfl, rfl⟩,
    oneWord_sound fun _ _ => ⟨fun _ => rfl, rfl⟩,
    wordArray_sound rfl (by decide) fun _ _ _ h => ⟨fun _ => h, rfl⟩,
    wordArray_sound rfl (by decide) fun _ _ _ h => ⟨fun _ => h, rfl⟩,
    oneWord_sound fun _ _ => ⟨fun _ => rfl, rfl⟩,
    oneWord_sound fun _ _ => ⟨fun _ => rfl, rfl⟩,
    wordArray_sound rfl (by decide) fun _ _ _ h => ⟨fun _ => h, rfl⟩,
    wordArray_sound rfl (by decide) fun _ _ _ h => ⟨fun _ => h, rfl⟩,
    oneWord_sound fun _ _ => ⟨fun _ => rfl, rfl⟩,
    wordArray_sound rfl (by decide) fun _ _ _ h => ⟨fun _ => h, rfl⟩,
    oneWord_sound fun _ _ => ⟨fun _ => rfl, rfl⟩,
    oneWord_sound fun _ _ => ⟨fun _ => rfl, rfl⟩,
    wordArray_sound rfl (by decide) fun _ _ _ h => ⟨fun _ => h, rfl⟩,
    wordArray_sound rfl (by decide) fun _ _ _ h => ⟨fun _ => h, rfl⟩,
    byteArray_sound rfl (by decide) fun _ _ _ _ h => ⟨fun _ => h, rfl⟩,
    byteArray_sound rfl (by decide) fun _ _ _ _ h => ⟨fun _ => and_dataOk_clip h, rfl⟩,
    byteArray_sound rfl (by decide) fun _ _ _ _ h => ⟨fun _ => h, rfl⟩,
    byteArray_sound rfl (by decide) fun _ _ _ _ h => ⟨fun _ => and_dataOk_clip h, rfl⟩,
    byteArray_sound rfl (by decide) fun _ _ _ _ h => ⟨fun _ => h, rfl⟩,
    byteArray_sound rfl (by decide) fun _ _ _ _ h => ⟨fun _ => h, rfl⟩,
    byteArray_sound rfl (by decide) fun _ _ _ _ h => ⟨fun _ => and_dataOk_clip h, rfl⟩,
    oneWord_sound fun _ _ => ⟨fun _ => rfl, rfl⟩,
    oneWord_sound fun _ _ => ⟨fun _ => rfl, rfl⟩,
    oneWord_sound fun _ _ => ⟨fun _ => rfl, rfl⟩,
    wordArray_sound rfl (by decide) fun _ _ _ h => ⟨fun _ => h, rfl⟩,
    wordArray_sound rfl (by decide) fun _ _ _ h => ⟨fun _ => h, rfl⟩,
    oneWord_sound fun _ _ => ⟨fun _ => rfl, rfl⟩,
    byteArray_sound rfl (by decide) fun _ _ _ _ h => ⟨fun _ => h, rfl⟩,
    byteArray_sound rfl (by decide) fun _ _ _ _ h => ⟨fun _ => and_dataOk_clip h, rfl⟩,
    byteArray_sound rfl (by decide) fun _ _ _ _ h => ⟨fun _ => h, rfl⟩,
    byteArray_sound rfl (by decide) fun _ _ _ _ h => ⟨fun _ => and_dataOk_clip h, rfl⟩⟩

theorem cpuRows_sound : ∀ r ∈ cpuRows, r.Sound := by
  simp only [cpuRows, List.forall_mem_cons, List.not_mem_nil, false_implies, implies_true, and_true]
  and_intros <;> exact oneWord_sound fun _ _ => ⟨fun _ => rfl, rfl⟩

theorem vcpuRows_sound : ∀ r ∈ vcpuRows, r.Sound := by
  simp only [vcpuRows, List.forall_mem_cons, List.not_mem_nil, false_implies, implies_true, and_true]
  and_intros <;> exact oneWord_sound fun _ _ => ⟨fun _ => rfl, rfl⟩

/-- The index of a list register is its word (R122). -/
theorem listReg_off {word : Nat} (h : wordOk 0 3 word = true) :
    0x100 + 4 * (Fin.ofNat 4 word).val = 0x100 + 4 * word := by
  simp only [wordOk, Bool.and_eq_true, decide_eq_true_eq] at h
  simp only [Fin.ofNat]
  omega

theorem vifctrlRows_sound : ∀ r ∈ vifctrlRows, r.Sound := by
  simp only [vifctrlRows, List.forall_mem_cons, List.not_mem_nil, false_implies, implies_true, and_true]
  exact ⟨oneWord_sound fun _ _ => ⟨fun _ => rfl, rfl⟩,
    oneWord_sound fun _ _ => ⟨fun _ => rfl, rfl⟩,
    oneWord_sound fun _ _ => ⟨fun _ => rfl, rfl⟩,
    oneWord_sound fun _ _ => ⟨fun _ => rfl, rfl⟩,
    oneWord_sound fun _ _ => ⟨fun _ => rfl, rfl⟩,
    oneWord_sound fun _ _ => ⟨fun _ => rfl, rfl⟩,
    oneWord_sound fun _ _ => ⟨fun _ => rfl, rfl⟩,
    wordArray_sound rfl (by decide) fun _ init _ h =>
      ⟨fun _ => rfl, congrArg (rd .gich · .w4 init) (listReg_off h)⟩,
    wordArray_sound rfl (by decide) fun _ init data h =>
      ⟨fun _ => rfl, congrArg (wr .gich · .w4 init data) (listReg_off h)⟩⟩

/-- Every register row is sound. -/
theorem rows_sound : ∀ r ∈ rows, r.Sound := by
  simp only [rows, List.forall_mem_append]
  exact ⟨⟨⟨distributorRows_sound, cpuRows_sound⟩, vcpuRows_sound⟩, vifctrlRows_sound⟩

/-- What an access decodes to stands for it, with only the data it carries: a register row by its soundness, and the
catch-all because the access has a cause (R86, R112). -/
theorem decodeBus_standsFor (key : BitVec 16) (n : Width) (init : Nat) (data : Word) :
    (decodeBus key n init data).StandsFor key n init (laneData key n data) := by
  rw [decodeBus]
  cases hrow : selectRow key n with
  | some r =>
    obtain ⟨hr, hacc⟩ := selectRow_eq_some hrow
    exact rows_sound r hr key n init data hacc
  | none =>
    have hcause := (selectRow_eq_none_iff key n).mp hrow
    exact ⟨fun _ => Bool.and_eq_true_iff.mpr ⟨hcause, beq_iff_eq.mpr (laneData_laneData key n data)⟩, rfl⟩

/-- Only the two LINE rows depend on the trigger modes (R170). -/
theorem Instr.StandsFor.selectedBy {i : Instr} {key : BitVec 16} {n : Width} {init : Nat} {data : Word}
    (h : i.StandsFor key n init data) (trig : Nat → Trigger) : i.selectedBy trig = true := by
  obtain ⟨-, henc⟩ := h
  unfold Instr.selectedBy
  split
  · cases henc
  · cases henc
  · rfl

/-- Settles O2: by `decodeBus_standsFor` for an access; a line event decodes only at a present port, to the row of its
trigger mode. -/
theorem decodedIsWellFormedAndReencodes : Obligations.DecodedIsWellFormedAndReencodes := by
  intro p trig r i h
  cases r with
  | bus key n init data =>
    cases h
    have hstands := decodeBus_standsFor key n init data
    have hselected := hstands.selectedBy trig
    obtain ⟨hwf, henc⟩ := hstands
    exact ⟨hwf p, hselected, henc⟩
  | line port value =>
    rw [decode] at h
    split_ifs at h with hport
    split at h
    case h_1 htrig =>
      cases h
      exact ⟨hport, beq_iff_eq.mpr htrig, rfl⟩
    case h_2 htrig =>
      cases h
      exact ⟨hport, beq_iff_eq.mpr htrig, rfl⟩
  | reset =>
    cases h
    exact ⟨rfl, rfl, rfl⟩

end Sys2Proof

namespace Sys2Proof.Machine

/-! ## Access errors (R86, R431) -/

/-- A step performs what the access of the oldest request decodes to, on the state without that request (R112). -/
theorem step_deliver_bus (s : State) (key : BitVec 16) (n : Width) (init : Nat) (data : Word) :
    step (s.deliver (.bus key n init data)) = exec (decodeBus key n init data) s := rfl

/-- The response to an access error, by cases on the policy and the direction (R86). -/
theorem accessErrorResponse_eq (policy : AccessErrorPolicy) (d : Dir) :
    accessErrorResponse policy d = if policy = .error then .error else if d = .read then .okData 0#32 else .ok := by
  cases policy <;> cases d <;> rfl

theorem accessErrorDiag_of_cause {key : BitVec 16} {n : Width} {code : AccessErrorCode}
    (h : accessErrorCause key n = some code) : accessErrorDiag key n = [.accessError code] := by
  rw [accessErrorDiag, h]

/-- The catch-all row responds by the policy and changes nothing else (R86). -/
theorem exec_accessError (key : BitVec 16) (n : Width) (init : Nat) (data : Word) (s : State) :
    exec (.accessError key n init data) s =
      .next (s.respond init (accessErrorResponse s.params.accessErrorPolicy (keyDir key)) (accessErrorDiag key n)) :=
  rfl

/-- An access that has a cause decodes to the catch-all row (R86, R112). -/
theorem decodeBus_of_cause {key : BitVec 16} {n : Width} {code : AccessErrorCode}
    (h : accessErrorCause key n = some code) (init : Nat) (data : Word) :
    decodeBus key n init data = .accessError key n init (laneData key n data) := by
  have hrow : selectRow key n = none := (selectRow_eq_none_iff key n).mpr (by rw [h]; rfl)
  rw [decodeBus, hrow]

/-- Settles O8: the access decodes to the catch-all row, which only responds. -/
theorem accessErrorChangesNoState : Obligations.AccessErrorChangesNoState := by
  intro s key n init data resp hresp
  rw [← accessErrorResponse_eq] at hresp
  subst hresp
  refine ⟨fun code hcode => ?_, accessErrorDiag key n, exec_accessError key n init data s⟩
  rw [step_deliver_bus, decodeBus_of_cause hcode, exec_accessError, accessErrorDiag_of_cause hcode]

end Sys2Proof.Machine
end

section
/-! SUPPORT. Encoding (30_encoding.md): no two register rows take one access, decoding undoes encoding, and a step
performs what its request decodes to (R110 to R112, R170). -/

namespace Sys2Proof

/-! ## At most one row takes an access (R112) -/

/-- Rows with offsets or windows apart do not take the same access. -/
theorem not_accepts_of_apart {a b : Row} (ha : a ∈ rows) (hb : b ∈ rows)
    (hapart : a.pattern &&& 0xe000#16 ≠ b.pattern &&& 0xe000#16 ∨ a.hi < b.lo ∨ b.hi < a.lo)
    {key : BitVec 16} {n : Width} (hacc : a.accepts key n = true) : ¬b.accepts key n = true := by
  intro hacc'
  have hwindow := (window_of_accepts ha hacc).symm.trans (window_of_accepts hb hacc')
  obtain ⟨-, hlo, hhi, -⟩ := (accepts_iff a key n).mp hacc
  obtain ⟨-, hlo', hhi', -⟩ := (accepts_iff b key n).mp hacc'
  rcases hapart with h | h | h
  · exact h hwindow
  · omega
  · omega

/-- Settles O3: two rows that took one access would be apart and yet not apart. -/
theorem registerRowsDoNotOverlap : Obligations.RegisterRowsDoNotOverlap := by
  intro key n
  have hmem : ∀ r ∈ rows.filter (fun r => r.accepts key n), r ∈ rows ∧ r.accepts key n = true :=
    fun r hr => List.mem_filter.mp hr
  have hapart := rows_apart.filter (fun r => r.accepts key n)
  generalize rows.filter (fun r => r.accepts key n) = taking at hmem hapart
  match taking with
  | [] => exact Nat.zero_le 1
  | [_] => exact Nat.le_refl 1
  | a :: b :: _ =>
    obtain ⟨ha, hacc⟩ := hmem a (by simp)
    obtain ⟨hb, hacc'⟩ := hmem b (by simp)
    exact absurd hacc' (not_accepts_of_apart ha hb (List.rel_of_pairwise_cons hapart (by simp)) hacc)

/-! ## The row of an instruction

`Instr` has one constructor per register row, in the table's order, so the row that decodes an instruction stands at the
index of its constructor. -/

/-- The row at the instruction's place in the table takes the access it encodes to, and builds it back. -/
def Instr.HasRow (i : Instr) : Prop :=
  ∃ (r : Row) (key : BitVec 16) (n : Width) (init : Nat) (data : Word), rows[i.ctorIdx]? = some r ∧
    encode i = .bus key n init data ∧ r.accepts key n = true ∧ r.build (keyOff key) n init (laneData key n data) = i

theorem Instr.HasRow.decode_encode {i : Instr} (h : i.HasRow) (p : Params) (trig : Nat → Trigger) :
    decode p trig (encode i) = .ok i := by
  obtain ⟨r, key, n, init, data, hrow, henc, hacc, hbuild⟩ := h
  rw [henc, decode, decodeBus_of_accepts _ hrow hacc, hbuild]

/-- What an access carries as data depends on its direction alone, so it may be read off the window's key (R81). -/
theorem laneData_mkKey {w : Iface} {d : Dir} {off : Nat} (hoff : off < 8192) {n : Width} {data : Word}
    (hdata : laneData (mkKey w d 0) n data = data) : laneData (mkKey w d off) n data = data := by
  have hdir : keyDir (mkKey w d off) = keyDir (mkKey w d 0) := by
    rw [keyDir_mkKey w d off hoff, keyDir_mkKey w d 0 (by decide)]
  rw [laneData_congr hdir, hdata]

/-- The instruction of a register that stands alone has its row (R84). -/
theorem Instr.hasRow_oneWord {i : Instr} {w : Iface} {d : Dir} {off init : Nat} {data : Word}
    {build : Nat → Word → Instr} (henc : encode i = .bus (mkKey w d off) .w4 init data)
    (hrow : rows[i.ctorIdx]? = some (oneWord (mkKey w d off) off build)) (hoff : off < 8192 ∧ off % 4 = 0)
    (hdata : laneData (mkKey w d 0) .w4 data = data) (hbuild : build init data = i) : i.HasRow := by
  obtain ⟨hlt, halign⟩ := hoff
  refine ⟨_, _, _, _, _, hrow, henc, oneWord_accepts w d off build hlt halign, ?_⟩
  rw [laneData_mkKey hlt hdata]
  exact hbuild

/-- The instruction of a word array has its row at every word index of the row's offsets (R125, R127). -/
theorem Instr.hasRow_wordArray {i : Instr} {w : Iface} {d : Dir} {base lo hi word init : Nat} {data : Word}
    {build : Nat → Nat → Word → Instr} (henc : encode i = .bus (mkKey w d (base + 4 * word)) .w4 init data)
    (hrow : rows[i.ctorIdx]? = some (wordArray (mkKey w d 0) base lo hi build))
    (hrange : 4 ∣ base ∧ 4 ∣ lo ∧ base ≤ lo ∧ lo ≤ hi ∧ hi < 8192)
    (hword : wordOk ((lo - base) / 4) ((hi - base) / 4) word = true)
    (hdata : laneData (mkKey w d 0) .w4 data = data) (hbuild : build word init data = i) : i.HasRow := by
  obtain ⟨hbase4, hlo4, hlo, hle, hhi⟩ := hrange
  simp only [wordOk, Bool.and_eq_true, decide_eq_true_eq] at hword
  have hoff : base + 4 * word < 8192 := by omega
  have hindex : (base + 4 * word - base) / 4 = word := by omega
  refine ⟨_, _, _, _, _, hrow, henc,
    wordArray_accepts w d base lo hi _ build hoff (by omega) (by omega) (by omega), ?_⟩
  rw [keyOff_mkKey w d _ hoff, laneData_mkKey hoff hdata]
  change build ((base + 4 * word - base) / 4) init data = i
  rw [hindex, hbuild]

/-- The instruction of a byte array has its row at every width and every first byte of the row's offsets that is aligned
for it (R84, R126). -/
theorem Instr.hasRow_byteArray {i : Instr} {w : Iface} {d : Dir} {base lo hi first init : Nat} {n : Width} {data : Word}
    {build : Nat → Width → Nat → Word → Instr}
    (henc : encode i = .bus (mkKey w d (base + first)) n init data)
    (hrow : rows[i.ctorIdx]? = some (byteArray (mkKey w d 0) base lo hi build))
    (hrange : 4 ∣ base ∧ base ≤ lo ∧ lo ≤ hi ∧ hi < 8192)
    (hfirst : bytesOk (lo - base) (hi - base) first n = true) (hdata : laneData (mkKey w d 0) n data = data)
    (hbuild : build first n init data = i) : i.HasRow := by
  obtain ⟨hbase4, hlo, hle, hhi⟩ := hrange
  simp only [bytesOk, Bool.and_eq_true, decide_eq_true_eq, beq_iff_eq] at hfirst
  obtain ⟨⟨hfirstLo, hfirstHi⟩, halign⟩ := hfirst
  have hoff : base + first < 8192 := by omega
  have halign : (base + first) % n.bytes = 0 := by
    have hn : n.bytes ∣ 4 := by cases n <;> decide
    exact Nat.mod_eq_zero_of_dvd (Nat.dvd_add (hn.trans hbase4) (Nat.dvd_of_mod_eq_zero halign))
  refine ⟨_, _, _, _, _, hrow, henc,
    byteArray_accepts w d base lo hi _ n build hoff halign (by omega) (by omega), ?_⟩
  rw [keyOff_mkKey w d _ hoff, laneData_mkKey hoff hdata]
  change build (base + first - base) n init data = i
  rw [Nat.add_sub_cancel_left, hbuild]

/-- Every list register is a word of its row (R122). -/
theorem wordOk_listReg (i : LrIx) : wordOk 0 3 i.val = true := by revert i; decide

/-- An access with a cause of access error decodes to the catch-all row (R86, R112). -/
theorem decodeBus_of_wf_accessError {p : Params} {key : BitVec 16} {n : Width} {init : Nat} {data : Word}
    (h : (Instr.accessError key n init data).wf p = true) :
    decodeBus key n init data = .accessError key n init data := by
  obtain ⟨hcause, hdata⟩ := Bool.and_eq_true_iff.mp h
  rw [decodeBus, (selectRow_eq_none_iff key n).mpr hcause, beq_iff_eq.mp hdata]

/-- Settles O1: by the row of the instruction, of the shape its operands have; the catch-all by its cause, and a LINE
row by the trigger mode that selects it. -/
theorem decodeEncodeRoundTrip : Obligations.DecodeEncodeRoundTrip := by
  intro p trig i hwf hselected
  cases i
  case lineLevel port value =>
    have htrig : trig port.irq = .level := beq_iff_eq.mp hselected
    have hport : port.present p = true := hwf
    rw [encode, decode, if_pos hport, htrig]
  case lineEdge port value =>
    have htrig : trig port.irq = .edge := beq_iff_eq.mp hselected
    have hport : port.present p = true := hwf
    rw [encode, decode, if_pos hport, htrig]
  case reset => rfl
  case accessError key n init data => rw [encode, decode, decodeBus_of_wf_accessError hwf]
  case rdGichLr i init =>
    apply Instr.HasRow.decode_encode
    exact Instr.hasRow_wordArray rfl rfl (by decide) (wordOk_listReg i) rfl
      (congrArg (Instr.rdGichLr · init) (Fin.ofNat_val_eq_self i))
  case wrGichLr i init data =>
    apply Instr.HasRow.decode_encode
    exact Instr.hasRow_wordArray rfl rfl (by decide) (wordOk_listReg i) rfl
      (congrArg (Instr.wrGichLr · init data) (Fin.ofNat_val_eq_self i))
  case rdGicdIsenablerSpi | wrGicdIsenablerSpi | rdGicdIcenablerSpi | wrGicdIcenablerSpi | rdGicdIspendrSpi |
      wrGicdIspendrSpi | rdGicdIcpendrSpi | wrGicdIcpendrSpi | rdGicdIsactiverSpi | rdGicdIcactiverSpi |
      wrGicdIcactiverSpi | rdGicdIcfgrSpi | wrGicdIcfgrSpi =>
    apply Instr.HasRow.decode_encode
    exact Instr.hasRow_wordArray rfl rfl (by decide) hwf rfl rfl
  case rdGicdIpriorityrPriv | rdGicdIpriorityrSpi | rdGicdItargetsrPriv | rdGicdItargetsrSpi | rdGicdCpendsgir |
      rdGicdSpendsgir =>
    apply Instr.HasRow.decode_encode
    exact Instr.hasRow_byteArray rfl rfl (by decide) hwf rfl rfl
  case wrGicdIpriorityrPriv | wrGicdIpriorityrSpi | wrGicdItargetsrSpi | wrGicdCpendsgir | wrGicdSpendsgir =>
    obtain ⟨hfirst, hdata⟩ := Bool.and_eq_true_iff.mp hwf
    apply Instr.HasRow.decode_encode
    exact Instr.hasRow_byteArray rfl rfl (by decide) hfirst (clip_of_dataOk hdata) rfl
  -- The rest are the instructions of the registers that stand alone.
  all_goals
    apply Instr.HasRow.decode_encode
    exact Instr.hasRow_oneWord rfl rfl (by decide) rfl rfl

/-- An access decodes to the instruction that stands for it. -/
theorem Instr.StandsFor.decodeBus_eq {i : Instr} {key : BitVec 16} {n : Width} {init : Nat} {data : Word}
    (h : i.StandsFor key n init data) : decodeBus key n init data = i := by
  have hselected := h.selectedBy fun _ => .level
  obtain ⟨hwf, henc⟩ := h
  have hdecode := decodeEncodeRoundTrip Params.standard _ i (hwf _) hselected
  rw [henc] at hdecode
  exact Except.ok.inj hdecode

/-- Settles O5: each instruction is well-formed and encodes to the key that R110 and the maps give it. -/
theorem knownKeysDecode : Obligations.KnownKeysDecode := by
  and_intros <;> exact Instr.StandsFor.decodeBus_eq ⟨fun _ => rfl, rfl⟩

end Sys2Proof

namespace Sys2Proof.Machine

/-! ## Steps (R112, R170) -/

/-- A step takes the request just delivered and leaves the state as it was before the delivery. -/
theorem fetch_deliver (s : State) (r : Request) : (s.deliver r).fetch = some (r, s) := rfl

/-- Settles O6: the delivered request is the one that is fetched, and it decodes to `i`. -/
theorem stepRunsDecodedInstruction : Obligations.StepRunsDecodedInstruction := by
  intro s r i hdecode
  have hdecode : s.decodeRequest r = .ok i := hdecode
  rw [step, fetch_deliver]
  dsimp only
  rw [hdecode]

end Sys2Proof.Machine
end

section
/-! SUPPORT. Register layouts (30_encoding.md R129 to R139): the numbers the read-only and control registers read, and
what a write of them holds. -/

namespace Sys2Proof.Machine

/-! ## Fields of a word -/

/-- A field shifted into place in a word that holds it is its value times the weight of its lowest bit. -/
theorem toNat_setWidth_shiftLeft {w v k : Nat} (x : BitVec w) (h : w + k ≤ v) :
    (x.setWidth v <<< k).toNat = x.toNat * 2 ^ k := by
  have hfit : x.toNat * 2 ^ k < 2 ^ v :=
    calc x.toNat * 2 ^ k < 2 ^ w * 2 ^ k := Nat.mul_lt_mul_of_pos_right x.isLt (Nat.two_pow_pos k)
      _ = 2 ^ (w + k) := (Nat.pow_add 2 w k).symm
      _ ≤ 2 ^ v := Nat.pow_le_pow_right (by decide) h
  rw [BitVec.toNat_shiftLeft, Nat.shiftLeft_eq, BitVec.toNat_setWidth_of_le (by omega), Nat.mod_eq_of_lt hfit]

/-- Fields that share no bit add up: the one is a multiple of the power of two that the other is under. -/
theorem toNat_or_of_dvd {a b : Word} {k : Nat} (ha : 2 ^ k ∣ a.toNat) (hb : b.toNat < 2 ^ k) :
    (a ||| b).toNat = a.toNat + b.toNat := by
  obtain ⟨m, hm⟩ := ha
  rw [BitVec.toNat_or, hm, Nat.two_pow_add_eq_or_of_lt hb]

/-! ## The distributor's control and type (R130, R201) -/

/-- GICD_TYPER as a number: the line count from bit 0 and the CPU count from bit 5 (R130). -/
theorem typerWord_toNat (p : Params) :
    (typerWord p).toNat = ((p.nimpl + 31) / 32 - 1) + 32 * (p.numCpu - 1) := by
  have hlines : (p.nimpl + 31) / 32 - 1 < 32 := by
    have := p.nimpl_le
    omega
  have hcpus := p.numCpu_le
  have hlow : (BitVec.ofNat 32 ((p.nimpl + 31) / 32 - 1)).toNat = (p.nimpl + 31) / 32 - 1 := by
    rw [BitVec.toNat_ofNat]
    omega
  have hhigh : (BitVec.ofNat 32 (p.numCpu - 1) <<< 5).toNat = 32 * (p.numCpu - 1) := by
    rw [BitVec.toNat_shiftLeft, BitVec.toNat_ofNat, Nat.shiftLeft_eq]
    omega
  rw [typerWord, BitVec.or_comm, toNat_or_of_dvd (k := 5) (by omega) (by omega), hlow, hhigh, Nat.add_comm]

/-- Settles O21: a write holds the low two bits of its data, and GICD_TYPER reads `typerWord`. -/
theorem distributorControlAndType : Obligations.DistributorControlAndType := by
  intro s init data
  rw [BitVec.setWidth_eq_extractLsb' (x := data) (by decide)]
  exact ⟨rfl, rfl, typerWord s.params, rfl, typerWord_toNat s.params⟩

/-! ## The plain registers of the CPU interface (R271 to R273, R291) -/

/-- Settles O32: a read answers the held field, and a write holds as many low bits of its data as the field has. -/
theorem cpuInterfaceRegisters : Obligations.CpuInterfaceRegisters := by
  rintro s init data r rfl
  rw [BitVec.setWidth_eq_extractLsb' (x := data) (w := 2) (by decide),
    BitVec.setWidth_eq_extractLsb' (x := data) (w := 8) (by decide),
    BitVec.setWidth_eq_extractLsb' (x := data) (w := 3) (by decide)]
  exact ⟨rfl, rfl, rfl, rfl, rfl, rfl, rfl, rfl, rfl⟩

/-! ## The highest pending interrupt (R129, R290, R367, R368) -/

theorem exec_rdGiccHppir_of_none {s : State} {init : Nat} (h : (s.arbOut (s.current init)).hppir = none) :
    exec (.rdGiccHppir init) s = .next (s.respond init (.okData 1023#32) []) := by
  rw [exec, execRdGiccHppir, h]
  rfl

theorem exec_rdGiccHppir_of_some {s : State} {init : Nat} {irq : Irq}
    (h : (s.arbOut (s.current init)).hppir = some irq) :
    exec (.rdGiccHppir init) s =
      .next (s.respond init (.okData (intidWord irq.val (sgiSource s (s.current init) irq.val))) []) := by
  rw [exec, execRdGiccHppir, h]
  rfl

theorem exec_rdGicvHppir_of_none {s : State} {init : Nat} (h : (s.arbOut (s.current init)).vhppir = none) :
    exec (.rdGicvHppir init) s = .next (s.respond init (.okData 1023#32) []) := by
  rw [exec, execRdGicvHppir, h]
  rfl

theorem exec_rdGicvHppir_of_some {s : State} {init : Nat} {i : LrIx}
    (h : (s.arbOut (s.current init)).vhppir = some i) :
    exec (.rdGicvHppir init) s =
      .next (s.respond init (.okData (vidWord ((s.virtIf (s.current init)).listReg i))) []) := by
  rw [exec, execRdGicvHppir, h]
  rfl

/-- The ID word of an interrupt on its CPU, as a number (R129). -/
theorem intidWord_sgiSource_toNat (s : State) (c : Cpu) (irq : Irq) :
    (intidWord irq.val (sgiSource s c irq.val)).toNat = irq.val + 1024 * sgiSource s c irq.val :=
  intidWord_toNat _ _ (by omega) (sgiSource_lt s c irq.val)

/-- Only an SGI has a source. -/
theorem sgiSource_of_ge (s : State) (c : Cpu) {irq : Nat} (h : 16 ≤ irq) : sgiSource s c irq = 0 :=
  if_neg (Nat.not_lt.mpr h)

/-- The ID word of a list register, as a number: only a virtual SGI carries a source CPU (R368). -/
theorem vidWord_toNat (e : ListReg) :
    (vidWord e).toNat = e.virtualId.toNat +
      (if e.hw = false ∧ e.virtualId.toNat < 16 then 1024 * e.cpuId.toNat else 0) := by
  rw [vidWord]
  split_ifs
  · exact intidWord_toNat _ _ e.virtualId.isLt e.cpuId.isLt
  · exact intidWord_toNat _ _ e.virtualId.isLt (by decide)

/-- Settles O33: by whether something is selected, and the source by what is pending of an SGI. -/
theorem highestPendingReads : Obligations.HighestPendingReads := by
  rintro s init c rfl
  constructor
  · cases hsel : (s.arbOut (s.current init)).hppir with
    | none =>
      exact ⟨1023#32, exec_rdGiccHppir_of_none hsel, fun _ => rfl, nofun, nofun, nofun⟩
    | some irq =>
      refine ⟨_, exec_rdGiccHppir_of_some hsel, nofun, ?_, ?_, ?_⟩
      · rintro _ ⟨⟩ hge
        rw [intidWord_sgiSource_toNat, sgiSource_of_ge s _ hge, Nat.mul_zero, Nat.add_zero]
      · rintro _ j ⟨⟩ hsgi hlowest
        obtain ⟨-, hsource, -⟩ := sourcesLeft_of_lowest s _ _ j hlowest
        rw [intidWord_sgiSource_toNat, hsource hsgi]
      · rintro _ ⟨⟩ - hempty
        obtain ⟨-, hsource⟩ := sourcesLeft_of_none s _ _ hempty
        rw [intidWord_sgiSource_toNat, hsource, Nat.mul_zero, Nat.add_zero]
  · cases hsel : (s.arbOut (s.current init)).vhppir with
    | none => exact ⟨1023#32, exec_rdGicvHppir_of_none hsel, fun _ => rfl, nofun⟩
    | some i =>
      refine ⟨_, exec_rdGicvHppir_of_some hsel, nofun, ?_⟩
      rintro _ e ⟨⟩ rfl
      exact vidWord_toNat _

/-! ## The plain registers of the virtual interface control (R138, R321, R324 to R326, R330) -/

/-- GICH_VMCR as a number: its four fields, each from its lowest bit (R138, R325). -/
theorem vmcrWord_toNat (v : VirtIf) :
    (vmcrWord v).toNat = (v.pmr.toNat / 8) * 2 ^ 27 + v.bpr.toNat * 2 ^ 21 + v.abpr.toNat * 2 ^ 18 + v.ctlr.toNat := by
  have hpmrField : (v.pmr.extractLsb' 3 5).toNat = v.pmr.toNat / 8 := by
    have := v.pmr.isLt
    rw [BitVec.extractLsb'_toNat, Nat.shiftRight_eq_div_pow]
    omega
  have hpmr := toNat_setWidth_shiftLeft (v := 32) (k := 27) (v.pmr.extractLsb' 3 5) (by decide)
  have hbpr := toNat_setWidth_shiftLeft (v := 32) (k := 21) v.bpr (by decide)
  have habpr := toNat_setWidth_shiftLeft (v := 32) (k := 18) v.abpr (by decide)
  have hctlr : (v.ctlr.setWidth 32).toNat = v.ctlr.toNat := BitVec.toNat_setWidth_of_le (by decide)
  have hbprLt := v.bpr.isLt
  have habprLt := v.abpr.isLt
  have hctlrLt := v.ctlr.isLt
  have hhigh := toNat_or_of_dvd (k := 27) (a := (v.pmr.extractLsb' 3 5).setWidth 32 <<< 27)
    (b := v.bpr.setWidth 32 <<< 21) (by omega) (by omega)
  have hmid := toNat_or_of_dvd (k := 21)
    (a := (v.pmr.extractLsb' 3 5).setWidth 32 <<< 27 ||| v.bpr.setWidth 32 <<< 21)
    (b := v.abpr.setWidth 32 <<< 18) (by omega) (by omega)
  rw [vmcrWord, toNat_or_of_dvd (k := 18) (by omega) (by omega)]
  omega

/-- A GICH_VMCR write, field by field as numbers (R138, R326). -/
theorem withVmcr_toNat (v : VirtIf) (data : Word) :
    (v.withVmcr data).pmr.toNat = data.toNat / 2 ^ 27 * 8 ∧ (v.withVmcr data).bpr.toNat = data.toNat / 2 ^ 21 % 8 ∧
      (v.withVmcr data).abpr.toNat = data.toNat / 2 ^ 18 % 8 ∧ (v.withVmcr data).ctlr.toNat = data.toNat % 4 := by
  have hfield (start len : Nat) : (data.extractLsb' start len).toNat = data.toNat / 2 ^ start % 2 ^ len := by
    rw [BitVec.extractLsb'_toNat, Nat.shiftRight_eq_div_pow]
  refine ⟨?_, hfield 21 3, hfield 18 3, (hfield 0 2).trans (congrArg (· % 4) (Nat.div_one _))⟩
  have := data.isLt
  rw [VirtIf.withVmcr, toNat_setWidth_shiftLeft _ (by decide), hfield]
  omega

/-- Settles O41: GICH_VMCR reads and writes its fields by place, and the other registers are held whole. -/
theorem virtualControlRegisters : Obligations.VirtualControlRegisters := by
  rintro s init data v rfl
  rw [BitVec.setWidth_eq_extractLsb' (x := data) (by decide)]
  obtain ⟨hpmr, hbpr, habpr, hctlr⟩ := withVmcr_toNat (s.virtIf (s.current init)) data
  exact ⟨rfl, rfl, rfl, ⟨_, rfl, vmcrWord_toNat _⟩, ⟨_, rfl, hpmr, hbpr, habpr, hctlr, rfl⟩, rfl, rfl⟩

end Sys2Proof.Machine
end

section
/-! SUPPORT. The interrupt state store (40_state_store.md): the mutators and the predicates (R161 to R164), and the two
input-line events (R170 to R172). -/

namespace Sys2Proof.Machine

/-! ## Predicates (R162, R164) -/

/-- A mask past the table reads 0 (R164). -/
theorem maskAt_of_le (t : Vector CpuMask 512) {irq : Nat} (h : 512 ≤ irq) : maskAt t irq = 0#8 := tabGet_of_le t irq h

/-- `testMask_iff`, bit by bit (R162). -/
theorem testMask_iff_exists_bit (t : Vector CpuMask 512) (irq : Nat) (m : CpuMask) :
    testMask t irq m = true ↔ ∃ b : Nat, m.getLsbD b = true ∧ (maskAt t irq).getLsbD b = true := by
  rw [testMask_iff, ne_eq, mask_eq_zero_iff, not_forall]
  constructor
  · rintro ⟨c, hc⟩
    rw [Bool.not_eq_false, BitVec.getLsbD_and, Bool.and_eq_true] at hc
    exact ⟨c.val, hc.2, hc.1⟩
  · rintro ⟨b, hm, ht⟩
    exact ⟨⟨b, BitVec.lt_of_getLsbD hm⟩, by simp [hm, ht]⟩

/-- Settles O15: each predicate is `testMask` on its own table, and no table has an entry past ID 511. -/
theorem storePredicatesTestAnyBit : Obligations.StorePredicatesTestAnyBit := fun st irq m =>
  have htest (t : Vector CpuMask 512) := testMask_iff_exists_bit t irq m
  ⟨htest st.enabled, htest st.pending, htest st.active, htest st.level, htest st.signaled,
    fun h => ⟨maskAt_of_le _ h, maskAt_of_le _ h, maskAt_of_le _ h, maskAt_of_le _ h, maskAt_of_le _ h⟩⟩

/-! ## Mutators (R161, R163, R164) -/

theorem Store.triggerOf_sgi (st : Store) {irq : Nat} (h : irq < 16) : st.triggerOf irq = .edge := if_pos h

/-- SET_TRIGGER writes the trigger table alone (R163). -/
theorem Store.setTrigger_frame (st : Store) (irq : Nat) (mode : Trigger) :
    st.setTrigger irq mode = { st with trigger := (st.setTrigger irq mode).trigger } := by
  unfold Store.setTrigger
  split <;> rfl

/-- `Store.setTrigger_triggerOf` at IDs in range: an SGI stays EDGE whichever ID is written (R163). -/
theorem Store.setTrigger_triggerOf_irq (st : Store) (irq j : Irq) (mode : Trigger) :
    (st.setTrigger irq.val mode).triggerOf j.val =
      if j.val < 16 then .edge else if j = irq then mode else st.triggerOf j.val := by
  by_cases hsgi : j.val < 16
  · rw [if_pos hsgi, Store.triggerOf_sgi _ hsgi]
  · rw [if_neg hsgi, Store.setTrigger_triggerOf]
    refine if_congr ⟨fun h => Fin.ext h.1, ?_⟩ rfl rfl
    rintro rfl
    exact ⟨rfl, Nat.le_of_not_lt hsgi, j.isLt⟩

/-- Settles O14: a mask mutator is `setMask` on its own table, and SET_TRIGGER keeps every mask. -/
theorem storeMutatorsWriteOneEntry : Obligations.StoreMutatorsWriteOneEntry :=
  ⟨fun t irq v m j => maskAt_setMask t irq j v m,
    fun _ _ _ _ => ⟨rfl, rfl, rfl, rfl, rfl, rfl, rfl⟩,
    fun st irq mode => ⟨fun j => st.setTrigger_triggerOf_irq irq j mode, st.setTrigger_frame irq.val mode⟩⟩

/-! ## Line events (R170 to R172) -/

/-- A condition on the ID and the mask a port drives, given case by case as R170 does, fixes both. -/
theorem eq_portMask_of_cases {port : Port} {irq : Nat} {m : CpuMask}
    (hppi : ∀ (c : Cpu) (k : Fin 16), port = .ppi c k → irq = 16 + k.val ∧ m = 1#8 <<< c.val)
    (hspi : ∀ x : Fin 480, port = .spi x → irq = 32 + x.val ∧ m = 0xff#8) :
    irq = port.irq ∧ m = portMask port := by
  cases port with
  | ppi c k => exact hppi c k rfl
  | spi x => exact hspi x rfl

/-- A level event repeats the level held, or changes the store and re-arbitrates (R171). -/
theorem exec_lineLevel (s : State) (port : Port) (v : Bool) :
    exec (.lineLevel port v) s =
      if v = decide (maskAt s.store.level port.irq &&& portMask port ≠ 0#8) then .next (s.setOut none [])
      else .next ((update { s with store := lineLevelStore port.irq (portMask port) v s.store }).setOut none []) := by
  rw [← Store.isLevel_eq]
  rfl

/-- An edge event repeats the level held, or changes the store and re-arbitrates (R172). -/
theorem exec_lineEdge (s : State) (port : Port) (v : Bool) :
    exec (.lineEdge port v) s =
      if v = decide (maskAt s.store.level port.irq &&& portMask port ≠ 0#8) then .next (s.setOut none [])
      else .next ((update { s with
        store := lineEdgeStore s.params.edgeGatedBySignaled port.irq (portMask port) v s.store }).setOut none []) := by
  rw [← Store.isLevel_eq]
  rfl

/-- A table in which the bits of `m` are set at one ID under a condition. -/
theorem tableWith_setMask_true_ite (t : Vector CpuMask 512) (irq : Nat) (m : CpuMask) (P : Prop) [Decidable P] :
    TableWith t (if P then setMask t irq true m else t) irq (if P then maskAt t irq ||| m else maskAt t irq) := by
  split_ifs
  · exact tableWith_setMask t irq true m
  · exact tableWith_self t irq

/-- The pending table after a level event: low clears, high sets unless the interrupt is signaled (R171). -/
theorem lineLevelStore_pending_tableWith (irq : Nat) (m : CpuMask) (v : Bool) (st : Store) :
    TableWith st.pending (lineLevelStore irq m v st).pending irq
      (if v = false then maskAt st.pending irq &&& ~~~m
        else if maskAt st.signaled irq &&& m = 0#8 then maskAt st.pending irq ||| m else maskAt st.pending irq) := by
  rw [lineLevelStore_eq]
  cases v with
  | false => exact tableWith_setMask st.pending irq false m
  | true => exact tableWith_setMask_true_ite st.pending irq m (maskAt st.signaled irq &&& m = 0#8)

/-- Settles O49: the changed store is `lineLevelStore`, which writes the level and the pending table alone. -/
theorem levelLineEvent : Obligations.LevelLineEvent := by
  intro s port v irq m hppi hspi
  obtain ⟨rfl, rfl⟩ := eq_portMask_of_cases hppi hspi
  rw [exec_lineLevel]
  refine ⟨fun hsame => if_pos hsame, fun hchanged => ⟨_, if_neg hchanged, ?_⟩⟩
  have hpending := lineLevelStore_pending_tableWith port.irq (portMask port) v s.store
  rw [lineLevelStore_eq] at hpending ⊢
  exact ⟨tableWith_setMask s.store.level port.irq v (portMask port), hpending, rfl, rfl, rfl, rfl⟩

/-- Settles O50: the changed store is `lineEdgeStore`, which never clears a pending bit. -/
theorem edgeLineEvent : Obligations.EdgeLineEvent := by
  intro s port v irq m hppi hspi
  obtain ⟨rfl, rfl⟩ := eq_portMask_of_cases hppi hspi
  rw [exec_lineEdge]
  refine ⟨fun hsame => if_pos hsame, fun hchanged => ⟨_, if_neg hchanged, ?_⟩⟩
  rw [lineEdgeStore_eq]
  exact ⟨tableWith_setMask s.store.level port.irq v (portMask port),
    tableWith_setMask_true_ite s.store.pending port.irq (portMask port) _, rfl, rfl, rfl, rfl⟩

end Sys2Proof.Machine
end

section
/-! SUPPORT. The distributor (41_distributor.md): what its registers read, and the one piece of state that each of its
writes changes (R202 to R252). -/

namespace Sys2Proof.Machine

/-! ## The one-bit-per-ID registers, read (R125, R202, R203, R210, R211, R220, R223) -/

theorem readsBits_of_bitWord {s : State} {i : Instr} {init word : Nat} {test : Nat → Bool}
    (h : exec i s = readDone init (bitWord s.params word test) s) :
    ReadsBits i init s (fun b => s.params.impl (32 * word + b) && test (32 * word + b)) :=
  ⟨_, h, fun b hb => bitWord_getLsbD s.params word test b hb⟩

/-- Settles O22: each row answers the word of its own table. -/
theorem oneBitRegistersRead : Obligations.OneBitRegistersRead := by
  intro s init word
  refine ⟨fun i hi => ?enabled, fun i hi => ?pending, fun i hi => ?active⟩
  case enabled =>
    have hexec : exec i s = readDone init (enabledWord s (s.current init) word) s := by
      rcases hi with ⟨rfl, rfl | rfl⟩ | rfl | rfl <;> rfl
    exact readsBits_of_bitWord hexec
  case pending =>
    have hexec : exec i s = readDone init (pendingWord s (s.current init) word) s := by
      rcases hi with ⟨rfl, rfl | rfl⟩ | rfl | rfl <;> rfl
    exact readsBits_of_bitWord hexec
  case active =>
    have hexec : exec i s = readDone init (activeWord s (s.current init) word) s := by
      rcases hi with ⟨rfl, rfl | rfl⟩ | rfl | rfl <;> rfl
    exact readsBits_of_bitWord hexec

/-! ## Enable (R202, R203) -/

theorem writesStore_of_writeWord {s : State} {i : Instr} {init word : Nat} {data : Word} {f : Nat → Store → Store}
    {P : Store → Prop} (h : exec i s = writeDone init [] (writeWord s word data f))
    (hP : P (forWordIds s.params word data f s.store)) : WritesStore i init s P := ⟨_, h, hP⟩

/-- What the level catch-up of ID `irq` reads of the store: the pending mask it may change, the trigger mode and the
level mask. -/
def catchUpView (irq : Nat) (st : Store) : CpuMask × Trigger × CpuMask :=
  (maskAt st.pending irq, st.triggerOf irq, maskAt st.level irq)

/-- The level catch-up for the CPUs of `m`, on what it reads (R202). -/
def catchUpOnView (m : CpuMask) (v : CpuMask × Trigger × CpuMask) : CpuMask × Trigger × CpuMask :=
  (if v.2.1 = .level ∧ v.2.2 &&& m ≠ 0#8 then v.1 ||| m else v.1, v.2.1, v.2.2)

theorem enableId_catchUpView_self (c : Cpu) (irq : Irq) (st : Store) :
    catchUpView irq.val (enableId c irq.val st) = catchUpOnView (maskFor irq.val c) (catchUpView irq.val st) := by
  rw [enableId_eq]
  refine Prod.ext ?_ rfl
  dsimp only [catchUpView]
  split_ifs with h
  · rw [maskAt_setMask_irq, if_pos rfl, if_pos rfl]
    exact (if_pos h).symm
  · exact (if_neg h).symm

theorem enableId_catchUpView_of_ne (c : Cpu) {irq : Irq} {j : Nat} (h : j ≠ irq.val) (st : Store) :
    catchUpView irq.val (enableId c j st) = catchUpView irq.val st := by
  rw [enableId_eq]
  refine Prod.ext ?_ rfl
  dsimp only [catchUpView]
  split_ifs
  · rw [maskAt_setMask_irq, if_neg h.symm]
  · rfl

/-- The pending masks an ISENABLER write leaves: the level catch-up of each selected ID (R202). -/
theorem forWordIds_enableId_pending (p : Params) (word : Nat) (data : Word) (c : Cpu) (st : Store) (irq : Irq) :
    maskAt (forWordIds p word data (enableId c) st).pending irq.val =
      if wordSelects p word data irq.val = true ∧ st.triggerOf irq.val = .level ∧
          maskAt st.level irq.val &&& maskFor irq.val c ≠ 0#8 then
        maskAt st.pending irq.val ||| maskFor irq.val c
      else maskAt st.pending irq.val := by
  have hview := forWordIds_at p word data (enableId c) irq.val (catchUpView irq.val)
    (catchUpOnView (maskFor irq.val c)) (enableId_catchUpView_self c irq)
    (fun st _ hj => enableId_catchUpView_of_ne c hj st) st
  refine (congrArg Prod.fst hview).trans ?_
  by_cases hsel : wordSelects p word data irq.val = true
  · simp only [hsel, if_true, true_and]
    rfl
  · rw [if_neg hsel, if_neg (fun h => hsel h.1)]
    rfl

/-- Settles O23: an ISENABLER write changes the enabled and pending tables, an ICENABLER write the enabled one. -/
theorem enableWritesWithLevelCatchUp : Obligations.EnableWritesWithLevelCatchUp := by
  intro s init word data i
  refine ⟨fun hi => ?enable, fun hi => ?disable⟩
  case enable =>
    have hexec : exec i s = writeDone init [] (writeWord s word data (enableId (s.current init))) := by
      rcases hi with ⟨rfl, rfl⟩ | rfl <;> rfl
    have hframe := forWordIds_enableId_eq s.params word data (s.current init) s.store
    exact writesStore_of_writeWord hexec ⟨forWordIds_enableId_enabled _ _ _ _ _, forWordIds_enableId_pending _ _ _ _ _,
      (congrArg Store.active hframe :), (congrArg Store.level hframe :), (congrArg Store.signaled hframe :),
      (congrArg Store.trigger hframe :)⟩
  case disable =>
    have hexec : exec i s = writeDone init [] (writeWord s word data (disableId (s.current init))) := by
      rcases hi with ⟨rfl, rfl⟩ | rfl <;> rfl
    exact writesStore_of_writeWord hexec
      ⟨forWordIds_disableId_enabled _ _ _ _ _, forWordIds_disableId_eq _ _ _ _ _⟩

/-! ## Pending (R210, R211) -/

/-- Settles O24: the four rows write one word with `pendId`, which skips the SGIs. -/
theorem pendingWritesSpareSgis : Obligations.PendingWritesSpareSgis := by
  intro s init word data i v hi
  have hexec : exec i s = writeDone init [] (writeWord s word data (pendId v (s.current init))) := by
    rcases hi with ⟨rfl, rfl, rfl⟩ | ⟨rfl, rfl⟩ | ⟨rfl, rfl, rfl⟩ | ⟨rfl, rfl⟩ <;> rfl
  have hframe := forWordIds_pendId_eq s.params word data v (s.current init) s.store
  exact writesStore_of_writeWord hexec ⟨forWordIds_pendId_pending _ _ _ _ _ _, (congrArg Store.enabled hframe :),
    (congrArg Store.active hframe :), (congrArg Store.level hframe :), (congrArg Store.signaled hframe :),
    (congrArg Store.trigger hframe :)⟩

/-! ## Active (R222) -/

/-- An ICACTIVER0 write: the UPDATE depends on ICACTIVER_PPI_UPDATES (R222). -/
theorem exec_wrGicdIcactiver0 (s : State) (init : Nat) (data : Word) :
    exec (.wrGicdIcactiver0 init data) s =
      .next ((if s.params.icactiverPpiUpdates then update (writeWord s 0 data (deactId (s.current init)))
        else writeWord s 0 data (deactId (s.current init))).respond init .ok []) := by
  rw [exec, execWrGicdIcactiver0]
  split <;> rfl

/-- Settles O25: both rows write one word with `deactId`, which changes the active table alone. -/
theorem icactiverWriteClearsActive : Obligations.IcactiverWriteClearsActive := fun s init word data =>
  ⟨_, _, exec_wrGicdIcactiver0 s init data, rfl,
    forWordIds_deactId_active s.params 0 data (s.current init) s.store,
    forWordIds_deactId_active s.params word data (s.current init) s.store,
    forWordIds_deactId_eq s.params 0 data (s.current init) s.store,
    forWordIds_deactId_eq s.params word data (s.current init) s.store⟩

/-! ## The byte-array registers, read (R83, R224, R227, R228, R250) -/

theorem readsBytes_of_packBytes {s : State} {i : Instr} {n : Width} {init : Nat} {f : Nat → Byte}
    (h : exec i s = readDone init (packBytes n f) s) : ReadsBytes i n init s f :=
  ⟨_, h, fun k hk => packBytes_byte n f k hk⟩

theorem priorityByte_eq (s : State) (c : Cpu) (irq : Nat) :
    priorityByte s c irq = if irq < s.params.nimpl then s.prio irq c else 0#8 := by
  simp only [priorityByte, params_impl_iff]

/-- Settles O26: each row packs the bytes of its own table. -/
theorem byteRegistersRead : Obligations.ByteRegistersRead := by
  intro s first n init
  refine ⟨fun i hi => ?priority, readsBytes_of_packBytes rfl, ?targets, fun i hi => ?sources⟩
  case priority =>
    have hexec : exec i s =
        readDone init (packBytes n (fun k => priorityByte s (s.current init) (first + k))) s := by
      rcases hi with rfl | rfl <;> rfl
    simp only [priorityByte_eq] at hexec
    exact readsBytes_of_packBytes hexec
  case targets =>
    have hexec : exec (.rdGicdItargetsrSpi first n init) s = readDone init
        (packBytes n (fun k => if s.params.impl (first + k) then s.targets (first + k) else 0#8)) s := rfl
    simp only [params_impl_iff] at hexec
    exact readsBytes_of_packBytes hexec
  case sources =>
    have hexec : exec i s = readDone init (sgiSourcesWord s (s.current init) first n) s := by
      rcases hi with rfl | rfl <;> rfl
    exact readsBytes_of_packBytes hexec

/-! ## Priority and target writes (R225, R226, R229) -/

/-- The banked priorities an IPRIORITYR write leaves: the written bytes in the bank of the current CPU (R225). -/
theorem forBytes_setPrioPriv_bankGet (n : Width) (s : State) (c d : Cpu) (first : Nat) (data : Word) (irq : Fin 32) :
    bankGet (forBytes n (fun k t => State.setPrioPriv t c (first + k) (byteOf data k)) s).prioPriv d irq.val =
      if d = c ∧ first ≤ irq.val ∧ irq.val < first + n.bytes then data.extractLsb' (8 * (irq.val - first)) 8
      else bankGet s.prioPriv d irq.val := by
  have hlt := irq.isLt
  by_cases hd : d = c
  · simp only [hd, true_and]
    refine forBytes_at n (fun t : State => bankGet t.prioPriv c irq.val) _ (fun k _ => byteOf data k) first irq.val
      (fun t k hk => ?_) (fun t k hk => ?_) s
    · rw [State.setPrioPriv_prioPriv, bankGet_bankSet, if_pos ⟨rfl, hk.symm, by omega⟩]
    · rw [State.setPrioPriv_prioPriv, bankGet_bankSet, if_neg (fun h => hk h.2.1.symm)]
  · rw [if_neg (fun h => hd h.1)]
    refine forBytes_keep n (fun t : State => bankGet t.prioPriv d irq.val) _ (fun t k => ?_) s
    rw [State.setPrioPriv_prioPriv, bankGet_bankSet, if_neg (fun h => hd h.1)]

/-- The bytes that a write of an SPI table leaves, for a table `get` written by `set`: those covered of implemented IDs
are the written ones (R226, R229). -/
theorem forBytes_spiTable_tabGet (get : State → Vector Byte 480) (set : State → Nat → Byte → State)
    (hset : ∀ (t : State) (irq : Nat) (v : Byte),
      get (set t irq v) = if 32 ≤ irq then (get t).setIfInBounds (irq - 32) v else get t)
    (p : Params) (n : Width) (s : State) (first : Nat) (data : Word) (x : Fin 480) :
    tabGet (get (forBytes n (fun k t => if p.impl (first + k) then set t (first + k) (byteOf data k) else t) s)) x.val =
      if first ≤ x.val + 32 ∧ x.val + 32 < first + n.bytes ∧ x.val + 32 < p.nimpl then
        data.extractLsb' (8 * (x.val + 32 - first)) 8
      else tabGet (get s) x.val := by
  have hlt := x.isLt
  have hbyte (t : State) (irq : Nat) (v : Byte) :
      tabGet (get (set t irq v)) x.val = if irq = x.val + 32 then v else tabGet (get t) x.val := by
    rw [hset]
    by_cases hspi : 32 ≤ irq
    · rw [if_pos hspi, tabGet_setIfInBounds]
      exact if_congr (by omega) rfl rfl
    · rw [if_neg hspi, if_neg (by omega)]
  by_cases himpl : x.val + 32 < p.nimpl
  · simp only [himpl, and_true]
    refine forBytes_at n (fun t => tabGet (get t) x.val) _ (fun k _ => byteOf data k) first (x.val + 32)
      (fun t k hk => ?_) (fun t k hk => ?_) s
    · rw [hk, if_pos ((params_impl_iff p _).mpr himpl), hbyte, if_pos rfl]
    · split
      · rw [hbyte, if_neg hk]
      · rfl
  · rw [if_neg (fun h => himpl h.2.2)]
    refine forBytes_keep n (fun t => tabGet (get t) x.val) _ (fun t k => ?_) s
    split
    next hk =>
      rw [params_impl_iff] at hk
      rw [hbyte, if_neg (by omega)]
    next => rfl

/-- Settles O27: each write changes its own table, byte by byte. -/
theorem priorityAndTargetWrites : Obligations.PriorityAndTargetWrites := by
  intro s first n init data
  refine ⟨⟨_, ?_, fun d => forBytes_setPrioPriv_bankGet n s (s.current init) d first data⟩,
    ⟨_, ?_, forBytes_spiTable_tabGet State.prioSpi State.setPrioSpi State.setPrioSpi_prioSpi s.params n s first data⟩,
    ⟨_, ?_, forBytes_spiTable_tabGet State.itargets State.setTargets State.setTargets_itargets s.params n s first data⟩⟩
  · exact congrArg (writeDone init []) (forBytes_setPrioPriv_eq n s (s.current init) first data)
  · exact congrArg (writeDone init []) (forBytes_setPrioSpi_eq n s first data s.params)
  · exact congrArg (writeDone init []) (forBytes_setTargets_eq n s first data s.params)

/-! ## Trigger configuration (R127, R240, R241) -/

/-- A field of an ICFGR word: its low bit is 0, its high bit says EDGE (R240). -/
theorem icfgrWord_field (s : State) (word : Nat) (k : Fin 16) :
    (icfgrWord s word).extractLsb' (2 * k.val) 2 =
      if 16 * word + k.val < s.params.nimpl ∧ s.store.triggerOf (16 * word + k.val) = .edge then 2#2 else 0#2 := by
  have hlow : (icfgrWord s word).getLsbD (2 * k.val) = false := by
    rw [icfgrWord, packBits_getLsbD _ _ (by omega), Nat.mul_mod_right]
    rfl
  have hhigh : (icfgrWord s word).getLsbD (2 * k.val + 1) =
      decide (16 * word + k.val < s.params.nimpl ∧ s.store.triggerOf (16 * word + k.val) = .edge) := by
    rw [icfgrWord, packBits_getLsbD _ _ (by omega), show (2 * k.val + 1) % 2 = 1 by omega,
      show (2 * k.val + 1) / 2 = k.val by omega]
    simp [Params.impl, Bool.beq_eq_decide_eq]
  refine BitVec.eq_of_getLsbD_eq fun b hb => ?_
  obtain rfl | rfl : b = 0 ∨ b = 1 := by omega
  · rw [BitVec.getLsbD_extractLsb', Nat.add_zero, hlow]
    split_ifs <;> rfl
  · rw [BitVec.getLsbD_extractLsb', hhigh]
    split_ifs with h <;> simp [h]

/-- ICFGR0 covers the SGIs, which every block implements and which are EDGE (R32, R240). -/
theorem icfgrWord_zero (s : State) : icfgrWord s 0 = 0xAAAAAAAA#32 := by
  refine BitVec.eq_of_getLsbD_eq fun b hb => ?_
  have himpl : s.params.impl (16 * 0 + b / 2) = true := by
    have := le_nimpl s.params
    exact (params_impl_iff _ _).mpr (by omega)
  have hpattern : ∀ b < 32, (b % 2 == 1) = (0xAAAAAAAA#32).getLsbD b := by decide
  rw [icfgrWord, packBits_getLsbD _ _ hb, himpl, Store.triggerOf_sgi _ (by omega), ← hpattern b hb]
  simp

/-- Settles O28: the three rows answer `icfgrWord`. -/
theorem icfgrRead : Obligations.IcfgrRead := by
  intro s init word
  constructor
  · intro i hi
    have hexec : exec i s = readDone init (icfgrWord s word) s := by
      rcases hi with ⟨rfl, rfl⟩ | ⟨rfl, rfl⟩ | rfl <;> rfl
    exact ⟨_, hexec, icfgrWord_field s word⟩
  · rw [← icfgrWord_zero s]
    rfl

/-- Settles O29: both rows perform `writeIcfgr`, which changes the trigger table alone. -/
theorem icfgrWriteSetsTriggers : Obligations.IcfgrWriteSetsTriggers := by
  intro s init word data i hi
  have hexec : exec i s = writeDone init [] (writeIcfgr s word data) := by
    rcases hi with ⟨rfl, rfl⟩ | rfl <;> rfl
  exact ⟨(writeIcfgr s word data).store, hexec, writeIcfgr_triggerOf s word data,
    congrArg State.store (writeIcfgr_eq s word data)⟩

/-! ## GICD_SGIR (R128, R230, R231) -/

theorem connected_getLsbD (p : Params) (t : Cpu) : p.connected.getLsbD t.val = decide (t.val < p.numCpu) := by
  rw [Params.connected, BitVec.getLsbD_ofNat, Nat.testBit_two_pow_sub_one, decide_eq_true t.isLt, Bool.true_and]

theorem sgirList_getLsbD (data : Word) (t : Cpu) : (sgirList data).getLsbD t.val = data.getLsbD (16 + t.val) := by
  rw [sgirList, BitVec.getLsbD_extractLsb', decide_eq_true t.isLt, Bool.true_and]

theorem sgirSgi_eq (data : Word) : sgirSgi data = (data.setWidth 4).toNat := by
  rw [sgirSgi, BitVec.setWidth_eq_extractLsb' (by decide)]

/-- Filter 3 names no target set (R230). -/
theorem sgirTargets_of_three {data : Word} (h : data.extractLsb' 24 2 = 3#2) (p : Params) (c : Cpu) :
    sgirTargets p c data = none := by
  rw [sgirTargets, sgirFilter, h]
  rfl

/-- The target set of the filters 0, 1 and 2, CPU by CPU (R230). -/
theorem sgirTargets_of_ne_three {data : Word} (h : data.extractLsb' 24 2 ≠ 3#2) (p : Params) (c : Cpu) :
    ∃ T : CpuMask, sgirTargets p c data = some T ∧ ∀ t : Cpu, T.getLsbD t.val =
      if data.extractLsb' 24 2 = 0#2 then data.getLsbD (16 + t.val) && decide (t.val < p.numCpu)
      else if data.extractLsb' 24 2 = 1#2 then decide (t.val < p.numCpu) && decide (t ≠ c)
      else decide (t = c) := by
  have hfilters : ∀ f : BitVec 2, f ≠ 3#2 → f = 0#2 ∨ f = 1#2 ∨ f = 2#2 := by decide
  rcases hfilters _ h with h | h | h <;> simp only [sgirTargets, sgirFilter, h]
  · refine ⟨_, rfl, fun t => ?_⟩
    rw [BitVec.getLsbD_and, sgirList_getLsbD, connected_getLsbD, if_pos trivial]
  · refine ⟨_, rfl, fun t => ?_⟩
    rw [BitVec.getLsbD_and, connected_getLsbD, BitVec.getLsbD_not, bit_getLsbD, decide_eq_true t.isLt, Bool.true_and,
      if_neg (by decide), if_pos trivial, decide_not]
  · refine ⟨_, rfl, fun t => ?_⟩
    rw [bit_getLsbD, if_neg (by decide), if_neg (by decide)]

/-- Settles O30: filter 3 has no target set, and any other raises the SGI on its own. -/
theorem sgirRaisesOnTargets : Obligations.SgirRaisesOnTargets := by
  intro s init data
  constructor
  · intro hfilter
    rw [exec, execWrGicdSgir, sgirTargets_of_three hfilter]
    rfl
  · intro hfilter
    obtain ⟨T, hT, hbits⟩ := sgirTargets_of_ne_three hfilter s.params (s.current init)
    have hexec : exec (.wrGicdSgir init data) s =
        writeDone init [] (raiseSgi (sgirSgi data) (s.current init) T s) := by
      rw [exec, execWrGicdSgir, hT]
    rw [raiseSgi_eq] at hexec
    rw [← sgirSgi_eq]
    exact ⟨_, _, fun t => T.getLsbD t.val, hbits, hexec,
      fun t i => raiseSgi_sgiSources _ _ T s t i.val (sgirSgi_lt data),
      fun irq t => raiseSgi_pending _ _ T s t irq, rfl⟩

/-! ## SPENDSGIR and CPENDSGIR (R251, R252) -/

/-- What the writes of SGI sources see of ID `i` on CPU `d`: its pending bit and its sources. -/
def sgiView (d : Cpu) (i : Nat) (s : State) : Bool × CpuMask :=
  ((maskAt s.store.pending i).getLsbD d.val, s.sgiSources d i)

/-- The sources that a SPENDSGIR (`v`) or CPENDSGIR byte `b` leaves of `m`. -/
def sourcesWritten (v : Bool) (b m : CpuMask) : CpuMask := if v then m ||| b else m &&& ~~~b

theorem writeSgiSources_sgiView_self (c : Cpu) {i : Nat} (h : i < 16) (v : CpuMask) (s : State) :
    sgiView c i (writeSgiSources c i v s) = (v != 0#8, v) := by
  rw [writeSgiSources_eq _ _ _ _ h]
  refine Prod.ext ?_ ?_
  · refine (setMask_getLsbD s.store.pending i (v != 0#8) (bit c.val) i c).trans (if_pos ⟨rfl, by omega, ?_⟩)
    rw [bit_getLsbD, decide_eq_true rfl]
  · exact (bankGet_bankSet s.sgiSrc c c i i v).trans (if_pos ⟨rfl, rfl, h⟩)

theorem writeSgiSources_sgiView_of_ne (c d : Cpu) {i j : Nat} (h : d ≠ c ∨ j ≠ i) (v : CpuMask) (s : State) :
    sgiView d j (writeSgiSources c i v s) = sgiView d j s := by
  by_cases hi : i < 16
  · rw [writeSgiSources_eq _ _ _ _ hi]
    refine Prod.ext ?_ ?_
    · refine (setMask_getLsbD s.store.pending i (v != 0#8) (bit c.val) j d).trans (if_neg ?_)
      rw [bit_getLsbD, decide_eq_true_iff]
      tauto
    · exact (bankGet_bankSet s.sgiSrc c d i j v).trans (if_neg (by tauto))
  · rw [writeSgiSources_of_ge _ _ _ _ (by omega)]

/-- The pending bit and the sources that a write of SGI sources leaves of one ID on one CPU (R251, R252). -/
theorem forBytes_writeSgiSources_sgiView (n : Width) (s : State) (c d : Cpu) (first : Nat)
    (g : Nat → CpuMask → CpuMask) (j : Nat) :
    sgiView d j (forBytes n (fun k t => writeSgiSources c (first + k) (g k (t.sgiSources c (first + k))) t) s) =
      if j < 16 ∧ d = c ∧ first ≤ j ∧ j < first + n.bytes then
        (g (j - first) (s.sgiSources d j) != 0#8, g (j - first) (s.sgiSources d j))
      else sgiView d j s := by
  by_cases hat : j < 16 ∧ d = c
  · obtain ⟨hj, rfl⟩ := hat
    simp only [hj, true_and]
    refine forBytes_at n (sgiView d j) _ (fun k w => (g k w.2 != 0#8, g k w.2)) first j
      (fun t k hk => ?_) (fun t k hk => writeSgiSources_sgiView_of_ne _ _ (.inr hk.symm) _ t) s
    rw [hk, writeSgiSources_sgiView_self _ hj]
    rfl
  · rw [if_neg (fun h => hat ⟨h.1, h.2.1⟩)]
    refine forBytes_keep n (sgiView d j) _ (fun t k => ?_) s
    by_cases hk : first + k < 16
    · exact writeSgiSources_sgiView_of_ne _ _ ((not_and_or.mp hat).elim (fun hj => .inr (by omega)) .inl) _ t
    · rw [writeSgiSources_of_ge _ _ _ _ (by omega)]

/-- Settles O31: a covered SGI's pending bit and sources are written together, from the sources held. -/
theorem sgiSourceWritesKeepPendingInStep : Obligations.SgiSourceWritesKeepPendingInStep := by
  intro s first n init data i v hi
  have hexec : exec i s = writeDone init [] (forBytes n (fun k t => writeSgiSources (s.current init) (first + k)
      (sourcesWritten v (byteOf data k) (t.sgiSources (s.current init) (first + k))) t) s) := by
    rcases hi with ⟨rfl, rfl⟩ | ⟨rfl, rfl⟩ <;> rfl
  have hview (d : Cpu) (j : Nat) := forBytes_writeSgiSources_sgiView n s (s.current init) d first
    (fun k => sourcesWritten v (byteOf data k)) j
  rw [forBytes_writeSgiSources_eq n s (s.current init) first (fun k => sourcesWritten v (byteOf data k))] at hexec
  refine ⟨_, _, hexec, fun d x => ?sources, fun irq d => ?pending, rfl⟩
  case sources =>
    have hsources := congrArg Prod.snd (hview d x.val)
    simp only [x.isLt, true_and, apply_ite Prod.snd] at hsources
    exact hsources
  case pending =>
    refine (congrArg Prod.fst (hview d irq.val)).trans ?_
    by_cases hcovered : irq.val < 16 ∧ d = s.current init ∧ first ≤ irq.val ∧ irq.val < first + n.bytes
    · have hsources := congrArg Prod.snd (hview d irq.val)
      rw [if_pos hcovered] at hsources ⊢
      rw [if_pos hcovered]
      exact congrArg (· != 0#8) hsources.symm
    · rw [if_neg hcovered, if_neg hcovered]
      rfl

end Sys2Proof.Machine
end

section
/-! SUPPORT. The CPU interface (42_cpu_interface.md): what an acknowledge takes (R274, R275), and what an end of
interrupt ends or ignores (R280 to R284). -/

namespace Sys2Proof.Machine

/-! ## Acknowledges by what is viable (R274, R275, R365) -/

theorem exec_rdGiccIar_of_none {s : State} {init : Nat} (h : viable s (s.current init) = none) :
    exec (.rdGiccIar init) s = .next (s.respond init (.okData 1023#32) []) := by
  rw [exec, execRdGiccIar, h]
  rfl

/-- The acknowledged ID word as a sum: the ID below its source (R129). -/
theorem intidWord_eq_ofNat {id src : Nat} (hid : id < 1024) (hsrc : src < 8) :
    intidWord id src = BitVec.ofNat 32 (id + 1024 * src) := by
  refine BitVec.eq_of_toNat_eq ?_
  rw [intidWord_toNat id src hid hsrc, BitVec.toNat_ofNat]
  omega

theorem exec_rdGiccIar_of_some {s : State} {init : Nat} {irq : Irq} (h : viable s (s.current init) = some irq) :
    exec (.rdGiccIar init) s =
      .next ((update (takeInterrupt s (s.current init) irq)).respond init
        (.okData (BitVec.ofNat 32 (irq.val + 1024 * sgiSource s (s.current init) irq.val)))
        (acknowledgeDiag s (s.current init) irq.val)) := by
  rw [exec, execRdGiccIar, h, ← intidWord_eq_ofNat (by omega) (sgiSource_lt s _ _)]

theorem exec_rdGicvIar_of_none {s : State} {init : Nat} (h : viableVirtual s (s.current init) = none) :
    exec (.rdGicvIar init) s = .next (s.respond init (.okData 1023#32) []) := by
  rw [exec, execRdGicvIar, h]
  rfl

/-- Settles O34: what cannot preempt is not viable, in either domain. -/
theorem spuriousAcknowledgeChangesNothing : Obligations.SpuriousAcknowledgeChangesNothing := fun s _ =>
  ⟨fun hblocked => exec_rdGiccIar_of_none ((viable_eq_none_iff s _).mpr hblocked),
    fun hblocked => exec_rdGicvIar_of_none ((viableVirtual_eq_none_iff s _).mpr hblocked)⟩

/-! ## The interrupt taken (R275) -/

/-- The store after the acknowledge of an ID whose mask is `m`, when its pending table becomes `pending` (R275). -/
def Store.acknowledged (st : Store) (pending : Vector CpuMask 512) (irq : Nat) (m : CpuMask) : Store :=
  { st with
    pending
    active := setMask st.active irq true m
    signaled := setMask st.signaled irq true m }

theorem Store.acknowledged_active_tableWith (st : Store) (pending : Vector CpuMask 512) (irq : Nat) (m : CpuMask) :
    TableWith st.active (st.acknowledged pending irq m).active irq (maskAt st.active irq ||| m) :=
  tableWith_setMask st.active irq true m

theorem Store.acknowledged_signaled_tableWith (st : Store) (pending : Vector CpuMask 512) (irq : Nat) (m : CpuMask) :
    TableWith st.signaled (st.acknowledged pending irq m).signaled irq (maskAt st.signaled irq ||| m) :=
  tableWith_setMask st.signaled irq true m

/-- The CPU interface that runs `irq` at priority `p` on top of what it ran (R275). -/
abbrev CpuIf.push (r : CpuIf) (irq : Irq) (p : Prio) : CpuIf := { r with stk := irq :: r.stk, rpr := p }

/-- A PPI or SPI is taken by its whole mask. -/
theorem takeInterrupt_of_ge (s : State) (c : Cpu) {irq : Irq} (h : 16 ≤ irq.val) :
    takeInterrupt s c irq =
      { s with
        store := s.store.acknowledged
          (setMask s.store.pending irq.val false (maskFor irq.val c)) irq.val (maskFor irq.val c) }.setCpuIf c
          ((s.cpuIf c).push irq (s.prio irq.val c)) := by
  rw [takeInterrupt_eq, consumePending_of_ge s c irq.val h]
  rfl

/-- The mask of an SGI is its CPU's bit (R33). -/
theorem maskFor_sgi {irq : Nat} (c : Cpu) (h : irq < 16) : maskFor irq c = bit c.val := by
  rw [maskFor_eq, if_pos (by omega)]

/-- An SGI is taken on its CPU alone, and loses one source. -/
theorem takeInterrupt_of_lt (s : State) (c : Cpu) {irq : Irq} (h : irq.val < 16) :
    takeInterrupt s c irq =
      { s with
        store := s.store.acknowledged
          (setMask s.store.pending irq.val (sourcesLeft s c irq.val != 0#8) (bit c.val)) irq.val (bit c.val)
        sgiSrc := bankSet s.sgiSrc c irq.val (sourcesLeft s c irq.val) }.setCpuIf c
          ((s.cpuIf c).push irq (s.prio irq.val c)) := by
  rw [takeInterrupt_eq, consumePending_of_lt s c irq.val h, maskFor_sgi c h]
  rfl

/-- Only an SGI can lack a source (R275, R433). -/
theorem acknowledgeDiag_of_ge (s : State) (c : Cpu) {irq : Nat} (h : 16 ≤ irq) : acknowledgeDiag s c irq = [] :=
  if_neg fun hnone => absurd hnone.1 (Nat.not_lt.mpr h)

theorem acknowledgeDiag_of_lt (s : State) (c : Cpu) {irq : Nat} (h : irq < 16) :
    acknowledgeDiag s c irq = if s.sgiSources c irq = 0#8 then [.sgiSourceOverflow] else [] :=
  if_congr (and_iff_right h) rfl rfl

/-- Settles O35: a viable PPI or SPI is taken by its whole mask, and its word carries no source. -/
theorem acknowledgeOfPpiOrSpi : Obligations.AcknowledgeOfPpiOrSpi := by
  rintro s init c irq rfl hselected hbetter hge
  have hviable := (viable_eq_some_iff s _ irq).mpr ⟨hselected, hbetter⟩
  have hexec := exec_rdGiccIar_of_some hviable
  rw [takeInterrupt_of_ge s _ hge, sgiSource_of_ge s _ hge, acknowledgeDiag_of_ge s _ hge] at hexec
  exact ⟨_, hexec, tableWith_setMask s.store.pending irq.val false _,
    Store.acknowledged_active_tableWith _ _ _ _, Store.acknowledged_signaled_tableWith _ _ _ _, rfl, rfl, rfl⟩

/-- The source an SGI's acknowledge answers and the sources it leaves, with and without a source (R275, R433). -/
theorem sgiSource_sourcesLeft_of_cases {s : State} {c : Cpu} {irq j : Nat} {left : CpuMask} (hsgi : irq < 16)
    (h : (LowestBit (s.sgiSources c irq) j ∧ left = s.sgiSources c irq &&& ~~~(1#8 <<< j)) ∨
      (s.sgiSources c irq = 0#8 ∧ j = 0 ∧ left = 0#8)) :
    sgiSource s c irq = j ∧ sourcesLeft s c irq = left := by
  rcases h with ⟨hlowest, rfl⟩ | ⟨hempty, rfl, rfl⟩
  · obtain ⟨hleft, hsource, -⟩ := sourcesLeft_of_lowest s c irq j hlowest
    exact ⟨hsource hsgi, hleft⟩
  · exact (sourcesLeft_of_none s c irq hempty).symm

/-- A mutator on one CPU's bit, bit by bit. -/
theorem setMask_bit_getLsbD (t : Vector CpuMask 512) (irq x : Irq) (v : Bool) (c d : Cpu) :
    (maskAt (setMask t irq.val v (bit c.val)) x.val).getLsbD d.val =
      if x = irq ∧ d = c then v else (maskAt t x.val).getLsbD d.val := by
  rw [setMask_getLsbD]
  exact if_congr (by rw [bit_getLsbD, decide_eq_true_iff, Fin.ext_iff (a := x), and_iff_right irq.isLt]) rfl rfl

/-- Settles O36: a viable SGI is taken on its CPU, and its source and what it leaves follow from what is recorded. -/
theorem acknowledgeOfSgiConsumesOneSource : Obligations.AcknowledgeOfSgiConsumesOneSource := by
  rintro s init c irq j left rfl hselected hbetter hsgi hsources
  have hviable := (viable_eq_some_iff s _ irq).mpr ⟨hselected, hbetter⟩
  obtain ⟨hsource, hleft⟩ := sgiSource_sourcesLeft_of_cases hsgi hsources
  have hexec := exec_rdGiccIar_of_some hviable
  rw [takeInterrupt_of_lt s _ hsgi, hsource, hleft, acknowledgeDiag_of_lt s _ hsgi] at hexec
  refine ⟨_, _, hexec, fun d x => ?sources, fun x d => setMask_bit_getLsbD s.store.pending irq x _ _ d,
    Store.acknowledged_active_tableWith _ _ _ _, Store.acknowledged_signaled_tableWith _ _ _ _, rfl, rfl, rfl⟩
  case sources =>
    rw [bankGet_bankSet]
    exact if_congr (by rw [and_iff_left hsgi]) rfl rfl

/-! ## Ends of interrupt (R280 to R284) -/

/-- The INTID of an EOIR write is the low ten bits of its data (R129). -/
theorem eoirId_eq_setWidth (data : Word) : eoirId data = (data.setWidth 10).toNat := by
  rw [BitVec.setWidth_eq_extractLsb' (x := data) (by decide)]
  rfl

theorem exec_wrGiccEoir_of_error {s : State} {init : Nat} {data : Word} {d : Diag}
    (h : endInterrupt s (s.current init) (data.setWidth 10).toNat = .error d) :
    exec (.wrGiccEoir init data) s = .next (s.respond init .ok [d]) := by
  rw [exec, execWrGiccEoir, eoirId_eq_setWidth, h]
  rfl

theorem exec_wrGiccEoir_of_ok {s t : State} {init : Nat} {data : Word}
    (h : endInterrupt s (s.current init) (data.setWidth 10).toNat = .ok t) :
    exec (.wrGiccEoir init data) s = .next ((update t).respond init .ok []) := by
  rw [exec, execWrGiccEoir, eoirId_eq_setWidth, h]
  rfl

/-- An ID that is not on the stack, whatever the reason, ends nothing (R280, R283). -/
theorem endInterrupt_of_not_mem {s : State} {c : Cpu} {id : Nat}
    (h : ∀ x : Irq, x ∈ (s.cpuIf c).stk → x.val ≠ id) : ∃ d : Diag, endInterrupt s c id = .error d := by
  rcases endInterrupt_cases s c id with ⟨-, herror⟩ | ⟨-, herror⟩ | ⟨irq, rest, hid, hstk, -⟩ |
    ⟨irq, top, rest, hid, hstk, -, hmem, -⟩ | ⟨-, herror⟩
  · exact ⟨_, herror⟩
  · exact ⟨_, herror⟩
  · exact absurd hid (h irq (by rw [hstk]; exact List.mem_cons_self))
  · exact absurd hid (h irq (by rw [hstk]; exact List.mem_cons_of_mem _ hmem))
  · exact ⟨_, herror⟩

/-- The ID at the head of the stack ends in order (R282). -/
theorem endInterrupt_of_head {s : State} {c : Cpu} {id : Nat} {irq : Irq} {rest : List Irq} (hid : id = irq.val)
    (h : (s.cpuIf c).stk = irq :: rest) : endInterrupt s c id = .ok (endInOrder s c irq rest) := by
  rw [hid, endInterrupt, dif_pos irq.isLt, h]
  exact if_pos rfl

/-- An ID below the head of the stack, and not at it, ends out of order (R283). -/
theorem endInterrupt_of_inside {s : State} {c : Cpu} {id : Nat} {irq top : Irq} {rest : List Irq} (hid : id = irq.val)
    (h : (s.cpuIf c).stk = top :: rest) (hne : irq ≠ top) (hmem : irq ∈ rest) :
    endInterrupt s c id = .ok (endOutOfOrder s c irq) := by
  rw [hid, endInterrupt, dif_pos irq.isLt, h]
  exact (if_neg hne).trans (if_pos hmem)

/-- Settles O37: in each of the three cases the ID is not on the stack. -/
theorem ignoredEndOfInterrupt : Obligations.IgnoredEndOfInterrupt := by
  intro s init data hignored
  have hnotMem : ∀ x : Irq, x ∈ (s.cpuIf (s.current init)).stk → x.val ≠ (data.setWidth 10).toNat := by
    rcases hignored with hrange | hempty | hnotMem
    · exact fun x _ => by omega
    · rw [hempty]
      exact nofun
    · exact hnotMem
  obtain ⟨d, herror⟩ := endInterrupt_of_not_mem hnotMem
  exact ⟨d, exec_wrGiccEoir_of_error herror⟩

/-- Settles O38: the head of the stack ends in order, and the store loses it by DEACTIVATE. -/
theorem inOrderEndOfInterrupt : Obligations.InOrderEndOfInterrupt := by
  rintro s init data c irq rest rfl hid hstk
  have hend := endInterrupt_of_head hid hstk
  refine ⟨_, restoredPrio s (s.current init) rest, exec_wrGiccEoir_of_ok hend, ?_, ?_, Store.deactivate_spec ..⟩
  · rintro rfl
    rfl
  · rintro x xs rfl
    rfl

/-- Settles O39: an ID that is not at the head ends out of order, and erasing it removes its first occurrence. -/
theorem outOfOrderEndOfInterrupt : Obligations.OutOfOrderEndOfInterrupt := by
  rintro s init data c irq above below rfl hid hstk habove hnotAbove
  obtain ⟨top, above', rfl⟩ := List.exists_cons_of_ne_nil habove
  have hend := endInterrupt_of_inside hid hstk (List.ne_of_not_mem_cons hnotAbove) List.mem_append_cons_self
  have herase : (s.cpuIf (s.current init)).stk.erase irq = (top :: above') ++ below := by
    rw [hstk, List.erase_append_right _ hnotAbove, List.erase_cons_head]
  refine ⟨_, ?_, Store.deactivate_spec ..⟩
  rw [exec_wrGiccEoir_of_ok hend, endOutOfOrder_eq, herase]
  rfl

end Sys2Proof.Machine
end

section
/-! SUPPORT. The virtual interface control (43_virtual_interface_control.md): list registers as a write leaves them and
as they read (R136, R137, R322, R323), their lookup (R331, R332), and the priority that `apr` names (R333). -/

namespace Sys2Proof.Machine

/-! ## A written list register (R135 to R137, R322) -/

/-- A field of a word as a number: what is left above its lowest bit, up to its width. -/
theorem toNat_extractLsb'_word (data : Word) (start len : Nat) :
    (data.extractLsb' start len).toNat = data.toNat / 2 ^ start % 2 ^ len := by
  rw [BitVec.extractLsb'_toNat, Nat.shiftRight_eq_div_pow]

/-- The two fields of a written list register that its hardware bit does not touch, as numbers (R136, R137). -/
theorem listRegOfWord_prio_virtualId_toNat (data : Word) :
    (listRegOfWord data).prio.toNat = data.toNat / 2 ^ 23 % 32 * 8 ∧
      (listRegOfWord data).virtualId.toNat = data.toNat % 1024 := by
  constructor
  · rw [listRegOfWord, toNat_setWidth_shiftLeft _ (by decide), toNat_extractLsb'_word]
    rfl
  · rw [listRegOfWord, toNat_extractLsb'_word, Nat.pow_zero, Nat.div_one]
    rfl

/-- The field from bit 10 is the physical ID of a hardware-backed entry and the source CPU of any other; the one it is
not is 0 (R136). -/
theorem listRegOfWord_physicalId_cpuId_toNat (data : Word) :
    (listRegOfWord data).physicalId.toNat = (if data.getLsbD 31 then data.toNat / 2 ^ 10 % 1024 else 0) ∧
      (listRegOfWord data).cpuId.toNat = (if data.getLsbD 31 then 0 else data.toNat / 2 ^ 10 % 8) := by
  rw [listRegOfWord]
  split_ifs
  · exact ⟨toNat_extractLsb'_word data 10 10, rfl⟩
  · exact ⟨rfl, toNat_extractLsb'_word data 10 3⟩

/-- Settles O42: the entry written is the word's own, and the word read is its raw word but for the two live bits. -/
theorem listRegisterWriteAndRead : Obligations.ListRegisterWriteAndRead := by
  intro s i init data
  obtain ⟨hprio, hvirtualId⟩ := listRegOfWord_prio_virtualId_toNat data
  obtain ⟨hphysicalId, hcpuId⟩ := listRegOfWord_physicalId_cpuId_toNat data
  exact ⟨⟨listRegOfWord data, rfl, rfl, rfl, rfl, rfl, hprio, hvirtualId, hphysicalId, hcpuId⟩,
    ⟨listRegWord ((s.virtIf (s.current init)).listReg i), rfl, listRegWord_getLsbD _⟩⟩

/-! ## The lookup (R331, R332) -/

theorem getIrqPriority_of_some {v : VirtIf} {vid : BitVec 10} {i : LrIx} (h : getLr v vid = some i) :
    getIrqPriority v vid = (v.listReg i).prio := by
  rw [getIrqPriority, h]

theorem getIrqPriority_of_none {v : VirtIf} {vid : BitVec 10} (h : getLr v vid = none) :
    getIrqPriority v vid = 0#8 := by
  rw [getIrqPriority, h]

/-- Settles O43: `get_lr` scans upwards, and `get_irq_priority` reads what it finds. -/
theorem listRegisterLookup : Obligations.ListRegisterLookup := fun v vid =>
  ⟨getLr_eq_some_iff v vid, fun _ => getIrqPriority_of_some, getIrqPriority_of_none⟩

/-! ## The priority that `apr` names (R14, R333) -/

/-- A bitmask with a bit set is not 0, so `apr_prio` is eight times the bit that APR_SELECT names. -/
theorem aprPrio_toNat_of_aprBit {sel : AprSelect} {a : Word} {b : Nat} (hset : a.getLsbD b = true)
    (hbit : aprBit sel a = b) : (aprPrio sel a).toNat = 8 * b := by
  have hne : a ≠ 0#32 := by
    rintro rfl
    simp at hset
  obtain ⟨hprio, -⟩ := aprPrio_of_bit sel a hne
  rw [hprio, hbit]

/-- Settles O44: MSB names the highest set bit and LSB the lowest. -/
theorem aprPrioNamesASetBit : Obligations.AprPrioNamesASetBit :=
  ⟨aprPrio_zero,
    fun a b hset habove => aprPrio_toNat_of_aprBit (sel := .msb) hset (highestSet_eq a b hset habove),
    fun a b hset hbelow => aprPrio_toNat_of_aprBit (sel := .lsb) hset (lowestSet_eq a b hset hbelow)⟩

end Sys2Proof.Machine
end

section
/-! SUPPORT. The virtual CPU interface (44_virtual_cpu_interface.md): its plain registers (R361 to R364), the virtual
acknowledge (R366, R368), the virtual end of interrupt (R370 to R373), and the unwinding of nested levels (R374). -/

namespace Sys2Proof.Machine

/-! ## The plain registers of the virtual CPU interface (R361 to R364) -/

/-- Settles O45: a read answers the held field, and a write holds as many low bits of its data as the field has. -/
theorem virtualCpuInterfaceRegisters : Obligations.VirtualCpuInterfaceRegisters := by
  rintro s init data v rfl
  rw [BitVec.setWidth_eq_extractLsb' (x := data) (w := 2) (by decide),
    BitVec.setWidth_eq_extractLsb' (x := data) (w := 8) (by decide),
    BitVec.setWidth_eq_extractLsb' (x := data) (w := 3) (by decide)]
  exact ⟨rfl, rfl, rfl, rfl, rfl, rfl, rfl, rfl, rfl⟩

/-! ## The levels of `apr` (R14, R137, R370) -/

/-- The preemption level of a priority, as a quotient (R137). -/
theorem prioLevel_eq_div (p : Prio) : prioLevel p = p.toNat / 8 := by
  rw [prioLevel, vprioShift, Nat.shiftRight_eq_div_pow]

/-- Setting a level's bit sets that bit and no other. -/
theorem or_level_getLsbD (a : Word) (l : Nat) {b : Nat} (hb : b < 32) :
    (a ||| 1#32 <<< l).getLsbD b = (a.getLsbD b || decide (b = l)) := by
  have hlevel : (decide (l < 32) && decide (l = b)) = decide (b = l) := by
    rw [← Bool.decide_and]
    exact decide_eq_decide.mpr (by omega)
  rw [BitVec.getLsbD_or, ← BitVec.twoPow_eq, BitVec.getLsbD_twoPow, hlevel]

/-! ## The virtual acknowledge (R366, R368) -/

theorem exec_rdGicvIar_of_some {s : State} {init : Nat} {i : LrIx}
    (h : viableVirtual s (s.current init) = some i) :
    exec (.rdGicvIar init) s =
      .next ((update (s.setVirtIf (s.current init)
        (takeVirtual s.params.aprSelect (s.virtIf (s.current init)) i))).respond init
          (.okData (vidWord ((s.virtIf (s.current init)).listReg i))) []) := by
  rw [exec, execRdGicvIar, h]

/-- Settles O46: the selected entry is viable, and taking it sets the bit of its level. -/
theorem virtualAcknowledge : Obligations.VirtualAcknowledge := by
  rintro s init c i v e rfl rfl rfl hselected hbetter
  have hviable := (viableVirtual_eq_some_iff s _ i).mpr ⟨hselected, hbetter⟩
  refine ⟨_, _, exec_rdGicvIar_of_some hviable, fun b hb => ?_, vidWord_toNat _⟩
  rw [or_level_getLsbD _ _ hb, prioLevel_eq_div]

/-! ## The virtual end of interrupt (R370 to R373) -/

/-- The later of two writes of one virtual interface is the one that stays. -/
@[simp] theorem State.setVirtIf_setVirtIf (s : State) (c : Cpu) (v w : VirtIf) :
    (s.setVirtIf c v).setVirtIf c w = s.setVirtIf c w := by
  simp [State.setVirtIf]

theorem exec_wrGicvEoir_of_ge {s : State} {init : Nat} {data : Word} (h : 512 ≤ (data.setWidth 10).toNat) :
    exec (.wrGicvEoir init data) s = .next (s.respond init .ok [.virtualEoiOutOfRange]) := by
  rw [BitVec.setWidth_eq_extractLsb' (x := data) (by decide)] at h
  rw [exec, execWrGicvEoir, endVirtual, if_neg (Nat.not_lt.mpr h)]
  rfl

/-- An end of an ID in range drops the priority, and then does what the list-register part does. -/
theorem exec_wrGicvEoir_of_lt {s t : State} {init : Nat} {data : Word} {diag : List Diag}
    (h : (data.setWidth 10).toNat < 512)
    (hend : virtualDeactivate (s.setVirtIf (s.current init)
      (virtualDrop s.params.aprSelect (s.virtIf (s.current init)))) (s.current init) (data.setWidth 10) = (t, diag)) :
    exec (.wrGicvEoir init data) s = .next ((update t).respond init .ok diag) := by
  rw [BitVec.setWidth_eq_extractLsb' (x := data) (by decide)] at h hend
  rw [exec, execWrGicvEoir, endVirtual, if_pos h, hend]
  rfl

/-- The priority drop leaves the list registers, so the lookup after it finds what the lookup before it does. -/
theorem getLr_virtualDrop (sel : AprSelect) (s : State) (c : Cpu) (vid : BitVec 10) :
    getLr ((s.setVirtIf c (virtualDrop sel (s.virtIf c))).virtIf c) vid = getLr (s.virtIf c) vid := by
  rw [State.setVirtIf_virtIf_self]
  exact getLr_congr rfl vid

/-- After the priority drop, the list-register part of an end that finds nothing (R371). -/
theorem virtualDeactivate_drop_of_none {sel : AprSelect} {s : State} {c : Cpu} {vid : BitVec 10}
    (h : getLr (s.virtIf c) vid = none) :
    virtualDeactivate (s.setVirtIf c (virtualDrop sel (s.virtIf c))) c vid =
      (s.setVirtIf c (virtualDrop sel (s.virtIf c)), [.lrLookupMiss]) := by
  rw [← getLr_virtualDrop sel] at h
  rcases virtualDeactivate_cases _ c vid with ⟨-, hmiss⟩ | ⟨i, e, hfound, -⟩
  · exact hmiss
  · exact nomatch h.symm.trans hfound

/-- What ending entry `e` on CPU `c` makes of the interrupt state store, with its diagnostics (R372, R373). -/
def PhysicalEnd (st0 st : Store) (c : Cpu) (e : ListReg) (diag : List Diag) : Prop :=
  (e.hw = true ∧ 16 < e.physicalId.toNat ∧ e.physicalId.toNat < 512 →
    Deactivated st0 st e.physicalId.toNat (maskFor e.physicalId.toNat c) ∧ diag = []) ∧
  (e.hw = true ∧ ¬(16 < e.physicalId.toNat ∧ e.physicalId.toNat < 512) → st = st0 ∧ diag = [.badLrPhysicalId]) ∧
  (e.hw = false → st = st0 ∧ diag = [])

/-- After the priority drop, the list-register part of an end that finds entry `i` (R371 to R373). -/
theorem virtualDeactivate_drop_of_some {sel : AprSelect} {s : State} {c : Cpu} {vid : BitVec 10} {i : LrIx}
    (h : getLr (s.virtIf c) vid = some i) :
    ∃ (st : Store) (diag : List Diag),
      virtualDeactivate (s.setVirtIf c (virtualDrop sel (s.virtIf c))) c vid =
        ({ s with store := st }.setVirtIf c
          ((virtualDrop sel (s.virtIf c)).setListReg i { (s.virtIf c).listReg i with active := false }), diag) ∧
      PhysicalEnd s.store st c ((s.virtIf c).listReg i) diag := by
  rw [← getLr_virtualDrop sel] at h
  rcases virtualDeactivate_cases _ c vid with ⟨hmiss, -⟩ | ⟨j, e, hfound, he, hend⟩
  · exact nomatch h.symm.trans hmiss
  obtain rfl : i = j := Option.some.inj (h.symm.trans hfound)
  rw [State.setVirtIf_virtIf_self] at he hend
  rw [State.setVirtIf_setVirtIf] at hend
  obtain rfl : e = (s.virtIf c).listReg i := he
  rcases hend with ⟨hw, hgt, hlt, hend⟩ | ⟨hw, hbad, hend⟩ | ⟨hw, hend⟩
  · exact ⟨_, _, hend, fun _ => ⟨Store.deactivate_spec .., rfl⟩, fun hc => absurd ⟨hgt, hlt⟩ hc.2,
      fun hc => nomatch hw.symm.trans hc⟩
  · exact ⟨_, _, hend, fun hc => absurd hc.2 hbad, fun _ => ⟨rfl, rfl⟩, fun hc => nomatch hw.symm.trans hc⟩
  · exact ⟨_, _, hend, fun hc => (nomatch hw.symm.trans hc.1), fun hc => (nomatch hw.symm.trans hc.1),
      fun _ => ⟨rfl, rfl⟩⟩

/-- Settles O47: by whether the ID is in range, and then by what the lookup finds. -/
theorem virtualEndOfInterrupt : Obligations.VirtualEndOfInterrupt := by
  rintro s init data c v v1 rfl rfl rfl
  refine ⟨exec_wrGicvEoir_of_ge, fun hlt hmiss => exec_wrGicvEoir_of_lt hlt (virtualDeactivate_drop_of_none hmiss), ?_⟩
  rintro i e hlt hfound rfl
  obtain ⟨st, diag, hend, hphysical⟩ := virtualDeactivate_drop_of_some hfound
  exact ⟨st, diag, exec_wrGicvEoir_of_lt hlt hend, hphysical⟩

/-! ## Nested levels (R370, R374) -/

/-- A pop clears the one bit that APR_SELECT names. -/
theorem aprPop_getLsbD_of_aprBit {sel : AprSelect} {a : Word} {b : Nat} (hset : a.getLsbD b = true)
    (hbit : aprBit sel a = b) (j : Nat) : (aprPop sel a).getLsbD j = (a.getLsbD j && decide (j ≠ b)) := by
  have hne : a ≠ 0#32 := by
    rintro rfl
    simp at hset
  rw [aprPop_getLsbD sel a j hne, hbit]

/-- The levels set on top of `a` are the only new bits. -/
theorem mem_of_foldl_levels_getLsbD {levels : List Nat} {a : Word} {b : Nat}
    (h : (levels.foldl (fun a l => a ||| (1#32 <<< l)) a).getLsbD b = true) : a.getLsbD b = true ∨ b ∈ levels := by
  have hb := BitVec.lt_of_getLsbD h
  induction levels generalizing a with
  | nil => exact .inl h
  | cons l levels ih =>
    rcases ih h with hold | hmem
    · rw [or_level_getLsbD _ _ hb, Bool.or_eq_true, decide_eq_true_iff] at hold
      exact hold.imp_right fun heq => List.mem_cons.mpr (.inl heq)
    · exact .inr (List.mem_cons_of_mem _ hmem)

/-- As many pops as there are levels to hold the set bits empty a bitmask: each pop takes one of them away. -/
theorem aprPop_iterate_eq_zero (sel : AprSelect) {n : Nat} {a : Word} {levels : List Nat} (hlength : levels.length = n)
    (hbits : ∀ b : Nat, a.getLsbD b = true → b ∈ levels) : (aprPop sel)^[n] a = 0#32 := by
  induction n generalizing a levels with
  | zero =>
    obtain rfl := List.eq_nil_of_length_eq_zero hlength
    exact BitVec.eq_of_getLsbD_eq fun b _ => by simpa using hbits b
  | succ n ih =>
    by_cases hzero : a = 0#32
    · rw [hzero]
      exact Function.iterate_fixed (aprPop_zero sel) _
    obtain ⟨-, -, hset⟩ := aprPrio_of_bit sel a hzero
    rw [Function.iterate_succ_apply]
    refine ih (levels := levels.erase (aprBit sel a)) ?_ fun b hb => ?_
    · rw [List.length_erase_of_mem (hbits _ hset), hlength, Nat.add_sub_cancel]
    · rw [aprPop_getLsbD sel a b hzero, Bool.and_eq_true, decide_eq_true_iff] at hb
      obtain ⟨hold, hne⟩ := hb
      exact (List.mem_erase_of_ne hne).mpr (hbits b hold)

/-- Settles O48: the bitmask built from N levels has no other bit, so N pops empty it; distinct levels are the case in
which all N are needed. -/
theorem nestedVirtualLevelsUnwind : Obligations.NestedVirtualLevelsUnwind := by
  refine ⟨aprPop_zero,
    fun a b hset habove => aprPop_getLsbD_of_aprBit (sel := .msb) hset (highestSet_eq a b hset habove),
    fun a b hset hbelow => aprPop_getLsbD_of_aprBit (sel := .lsb) hset (lowestSet_eq a b hset hbelow),
    fun sel levels _ _ => ?_⟩
  have hempty := aprPop_iterate_eq_zero sel (a := levels.foldl (fun a l => a ||| (1#32 <<< l)) 0#32) rfl
    fun b hb => (mem_of_foldl_levels_getLsbD hb).resolve_left (by simp)
  exact ⟨hempty, by rw [hempty, aprPrio_zero]⟩

end Sys2Proof.Machine
end

section
/-! SUPPORT. Arbitration (45_arbitration.md): UPDATE is idempotent and reads none of its own results (R400, R409), it
selects the best candidate of each domain (R401 to R410), and only one write leaves its results stale (R412, R491). -/

namespace Sys2Proof.Machine

/-! ## UPDATE as a function of the other state (R400, R409) -/

/-- UPDATE gives a connected CPU the results of the pass (R400). -/
theorem update_arbOut_of_connected (s : State) {c : Cpu} (h : c.val < s.params.numCpu) :
    (update s).arbOut c = arbFor s c := by rw [update_arbOut, if_pos h]

/-- UPDATE brings the arbiter's results up to date. -/
theorem update_arbitrated (s : State) : (update s).Arbitrated :=
  (arbitrated_iff _).mpr fun c hc => by
    rw [update_arbOut_of_connected s hc, arbFor_update]

/-- The pass does not read the results of an earlier one. -/
theorem arbFor_withArb (s : State) (a : Vector ArbOut 8) (c : Cpu) : arbFor { s with arb := a } c = arbFor s c :=
  arbFor_congr ⟨rfl, rfl, rfl, rfl, rfl, rfl, rfl, rfl⟩ c

/-- Settles O17: after an UPDATE the results are those of the pass, which reads none of them. -/
theorem updateIsAFunctionOfTheOtherState : Obligations.UpdateIsAFunctionOfTheOtherState := by
  refine fun s => ⟨rfl, update_arbitrated s, fun a c hc => ?_, fun c hc => ?_⟩
  · rw [update_arbOut_of_connected s hc, update_arbOut_of_connected { s with arb := a } hc, arbFor_withArb]
  · rw [update_arbOut, if_neg (Nat.not_lt.mpr hc)]

/-! ## Steps and arbitration that is current (R412, R491) -/

/-- What a step gives the outside is no input and no result of the pass. -/
theorem State.Arbitrated.setOut {s : State} (hs : s.Arbitrated) (resp : Option Response) (diag : List Diag) :
    (s.setOut resp diag).Arbitrated :=
  (arbitrated_iff _).mpr fun c hc => by
    rw [arbFor_setOut]
    exact (arbitrated_iff s).mp hs c hc

/-- Settles O55: an instruction leaves the state, or ends in an UPDATE, or is the one write that the premise excludes. -/
theorem onlyIcactiver0LeavesStaleArbitration : Obligations.OnlyIcactiver0LeavesStaleArbitration := by
  intro s t i hs hexec hexempt
  obtain ⟨u, resp, diag, hu, houtcome⟩ := exec_effect i (effectCpu i s) s fun init hi => by simp only [effectCpu, hi]
  obtain rfl : u.setOut resp diag = t := by rw [hu] at hexec; exact Host.Outcome.next.inj hexec
  refine State.Arbitrated.setOut ?_ resp diag
  rcases houtcome with rfl | ⟨v, -, rfl⟩ | ⟨⟨init, data, hi⟩, hparam, -⟩
  · exact hs
  · exact update_arbitrated v
  · rcases hexempt with hupdates | hother
    · exact nomatch hparam.symm.trans hupdates
    · exact absurd hi (hother init data)

/-! ## The selection of the pass (R401 to R410) -/

theorem physEnabled_iff (s : State) (c : Cpu) : physEnabled s c = true ↔ s.dctlr ≠ 0#2 ∧ (s.cpuIf c).ctlr ≠ 0#2 := by
  simp only [physEnabled, Bool.and_eq_true, bne_iff_ne]

theorem virtEnabled_iff (v : VirtIf) : virtEnabled v = true ↔ v.hcr = 1#1 ∧ v.ctlr ≠ 0#2 := by
  have hhcr : v.hcr ≠ 0#1 ↔ v.hcr = 1#1 := by bv_omega
  simp only [virtEnabled, Bool.and_eq_true, bne_iff_ne, hhcr]

/-- The physical selection reaches the CPU interface when its domain is enabled and it beats the mask (R402, R404). -/
theorem hppirOf_eq_some_iff (s : State) (c : Cpu) (irq : Irq) :
    hppirOf s c = some irq ↔ (s.dctlr ≠ 0#2 ∧ (s.cpuIf c).ctlr ≠ 0#2) ∧ physBest s c = some irq ∧
      (s.prio irq.val c).toNat < (s.cpuIf c).pmr.toNat := by
  rw [hppirOf, Option.ite_none_right_eq_some, physEnabled_iff, Option.filter_eq_some_iff, better_iff]

/-- The virtual selection reaches the CPU interface when its domain is enabled and it beats the mask (R406, R410). -/
theorem vhppirOf_eq_some_iff (v : VirtIf) (i : LrIx) :
    vhppirOf v = some i ↔ (v.hcr = 1#1 ∧ v.ctlr ≠ 0#2) ∧ virtBest v = some i ∧
      (v.listReg i).prio.toNat < v.pmr.toNat := by
  rw [vhppirOf, Option.ite_none_right_eq_some, virtEnabled_iff, Option.filter_eq_some_iff, better_iff]

/-- Settles O18: the scan finds the candidate with the least (priority, ID), which then has to beat the mask. -/
theorem updateSelectsBestPhysicalCandidate : Obligations.UpdateSelectsBestPhysicalCandidate := by
  intro s c irq hc
  rw [update_arbOut_of_connected s hc, arbFor, hppirOf_eq_some_iff, physBest_eq_some_iff]
  simp only [and_assoc]

/-- Settles O19: the scan finds the pending and not active entry with the least (priority, index), which then has to
beat the mask. -/
theorem updateSelectsBestListRegister : Obligations.UpdateSelectsBestListRegister := by
  intro s c i hc
  rw [update_arbOut_of_connected s hc, arbFor, vhppirOf_eq_some_iff, virtBest_eq_some_iff]
  simp only [and_assoc]

end Sys2Proof.Machine
end

section
/-! SUPPORT. Exceptions (60_exceptions.md): every instruction completes (R434), and an access leaves the banked state of
every other CPU as it was (R461). -/

namespace Sys2Proof.Machine

/-! ## What an instruction makes of a state (R434) -/

/-- An instruction completes, and what its effects, UPDATE and the response keep holds of the state it makes. -/
theorem exec_completes {i : Instr} {c : Cpu} {s : State} {P : State → Prop}
    (hc : ∀ init : Nat, initiatorOf i = some init → s.current init = c) (hs : P s)
    (heffect : ∀ u : State, Effect i c s u → P u) (hupdate : ∀ u : State, P u → P (update u))
    (hout : ∀ (u : State) (resp : Option Response) (diag : List Diag), P u → P (u.setOut resp diag)) :
    ∃ t : State, exec i s = .next t ∧ P t := by
  obtain ⟨u, resp, diag, hexec, houtcome⟩ := exec_effect i c s hc
  refine ⟨_, hexec, hout u resp diag ?_⟩
  rcases houtcome with rfl | ⟨v, hv, rfl⟩ | ⟨-, -, hu⟩
  · exact hs
  · exact hupdate v (heffect v hv)
  · exact heffect u hu

/-- No effect takes or adds a request, and reset leaves those that wait (log 14). -/
theorem Effect.inbox_eq {i : Instr} {c : Cpu} {s u : State} (h : Effect i c s u) : u.inbox = s.inbox := by
  cases h
  case prioPriv => rw [forBytes_setPrioPriv_eq]
  case prioSpi => rw [forBytes_setPrioSpi_eq]
  case targets => rw [forBytes_setTargets_eq]
  case sgir => rw [raiseSgi_eq]
  case sgiSources => rw [forBytes_writeSgiSources_eq]
  case take => rw [takeInterrupt_eq]
  case endVirtual vid _ _ =>
    rcases virtualDeactivate_effect (s.setVirtIf c (virtualDrop s.params.aprSelect (s.virtIf c))) c vid with
      h | ⟨v, h | ⟨pid, h⟩⟩ <;> rw [h] <;> rfl
  all_goals rfl

theorem Effect.params_eq {i : Instr} {c : Cpu} {s u : State} (h : Effect i c s u) : u.params = s.params :=
  h.params_arbOut.left

/-- Settles O59: every effect keeps the parameters and the requests, and so do UPDATE and the response. -/
theorem everyInstructionCompletes : Obligations.EveryInstructionCompletes := fun i s =>
  exec_completes (c := effectCpu i s) (P := fun t => t.params = s.params ∧ t.inbox = s.inbox)
    (fun init hi => by simp only [effectCpu, hi]) ⟨rfl, rfl⟩ (fun _ h => ⟨h.params_eq, h.inbox_eq⟩)
    (fun _ h => h) (fun _ _ _ h => h)

/-! ## One CPU's bits of the masks of its banked IDs (R31, R33) -/

/-- The store `st'` has CPU `d`'s bits of ID `irq` as `st` has them; of an ID below `lo` the pending bit is free. -/
structure Store.SameBits (lo irq : Nat) (d : Cpu) (st st' : Store) : Prop where
  enabled : (maskAt st'.enabled irq).getLsbD d.val = (maskAt st.enabled irq).getLsbD d.val
  active : (maskAt st'.active irq).getLsbD d.val = (maskAt st.active irq).getLsbD d.val
  level : (maskAt st'.level irq).getLsbD d.val = (maskAt st.level irq).getLsbD d.val
  signaled : (maskAt st'.signaled irq).getLsbD d.val = (maskAt st.signaled irq).getLsbD d.val
  pending (hlo : lo ≤ irq) : (maskAt st'.pending irq).getLsbD d.val = (maskAt st.pending irq).getLsbD d.val

/-- A write for CPU `c`, of any ID, reaches no other CPU's bit of a banked ID: the mask of a banked ID is `c`'s bit
alone (R33), and the mask of an SPI writes another entry. -/
theorem setMask_maskFor_getLsbD_other {c d : Cpu} (hd : d ≠ c) (t : Vector CpuMask 512) (irq : Fin 32) (j : Nat)
    (v : Bool) : (maskAt (setMask t j v (maskFor j c)) irq.val).getLsbD d.val = (maskAt t irq.val).getLsbD d.val := by
  rw [setMask_getLsbD, if_neg]
  rintro ⟨rfl, -, hbit⟩
  rw [maskFor_getLsbD, decide_eq_false (Nat.not_le.mpr irq.isLt), decide_eq_false hd] at hbit
  cases hbit

namespace Store.SameBits

variable {lo : Nat} {irq : Fin 32} {c d : Cpu} {st st' : Store}

theorem refl (lo irq : Nat) (d : Cpu) (st : Store) : SameBits lo irq d st st := ⟨rfl, rfl, rfl, rfl, fun _ => rfl⟩

theorem setEnabled (h : SameBits lo irq d st st') (hd : d ≠ c) (j : Nat) (v : Bool) :
    SameBits lo irq d st (st'.setEnabled j v (maskFor j c)) :=
  { h with enabled := (setMask_maskFor_getLsbD_other hd st'.enabled irq j v).trans h.enabled }

theorem setActive (h : SameBits lo irq d st st') (hd : d ≠ c) (j : Nat) (v : Bool) :
    SameBits lo irq d st (st'.setActive j v (maskFor j c)) :=
  { h with active := (setMask_maskFor_getLsbD_other hd st'.active irq j v).trans h.active }

theorem setSignaled (h : SameBits lo irq d st st') (hd : d ≠ c) (j : Nat) (v : Bool) :
    SameBits lo irq d st (st'.setSignaled j v (maskFor j c)) :=
  { h with signaled := (setMask_maskFor_getLsbD_other hd st'.signaled irq j v).trans h.signaled }

theorem setPending (h : SameBits lo irq d st st') (hd : d ≠ c) (j : Nat) (v : Bool) :
    SameBits lo irq d st (st'.setPending j v (maskFor j c)) :=
  { h with pending := fun hlo => (setMask_maskFor_getLsbD_other hd st'.pending irq j v).trans (h.pending hlo) }

theorem catchUp (h : SameBits lo irq d st st') (hd : d ≠ c) (j : Nat) :
    SameBits lo irq d st (st'.catchUp j (maskFor j c)) := by
  rw [Store.catchUp]
  split_ifs
  · exact h.setPending hd j true
  · exact h

theorem deactivate (h : SameBits lo irq d st st') (hd : d ≠ c) (j : Nat) :
    SameBits lo irq d st (st'.deactivate j (maskFor j c)) :=
  ((h.setActive hd j false).setSignaled hd j false).catchUp hd j

theorem enableId (h : SameBits lo irq d st st') (hd : d ≠ c) (j : Nat) : SameBits lo irq d st (enableId c j st') :=
  (h.setEnabled hd j true).catchUp hd j

theorem disableId (h : SameBits lo irq d st st') (hd : d ≠ c) (j : Nat) : SameBits lo irq d st (disableId c j st') :=
  h.setEnabled hd j false

theorem pendId (h : SameBits lo irq d st st') (hd : d ≠ c) (v : Bool) (j : Nat) :
    SameBits lo irq d st (pendId v c j st') := by
  rw [Machine.pendId]
  split_ifs
  · exact h.setPending hd j v
  · exact h

theorem deactId (h : SameBits lo irq d st st') (hd : d ≠ c) (j : Nat) : SameBits lo irq d st (deactId c j st') :=
  h.setActive hd j false

end Store.SameBits

/-! ## One CPU's banked state (R461) -/

/-- The state `t` has the banked state of CPU `d` as `s` has it, less the arbiter's results; of the SGIs below `lo` the
sources and the pending bit are free. -/
structure SameBank (lo : Nat) (d : Cpu) (s t : State) : Prop where
  cpuIf : t.cpuIf d = s.cpuIf d
  virtIf : t.virtIf d = s.virtIf d
  prio (irq : Fin 32) : t.prio irq.val d = s.prio irq.val d
  store (irq : Fin 32) : Store.SameBits lo irq.val d s.store t.store
  sgiSources (i : Fin 16) (hlo : lo ≤ i.val) : t.sgiSources d i.val = s.sgiSources d i.val

/-- The priority of a banked ID is in the CPU's bank (R38, R40). -/
theorem State.prio_banked (s : State) (irq : Fin 32) (c : Cpu) : s.prio irq.val c = bankGet s.prioPriv c irq.val :=
  if_pos irq.isLt

namespace SameBank

variable {lo : Nat} {c d : Cpu} {s t : State}

theorem refl (lo : Nat) (d : Cpu) (s : State) : SameBank lo d s s :=
  ⟨rfl, rfl, fun _ => rfl, fun irq => .refl lo irq.val d s.store, fun _ _ => rfl⟩

/-- The banked state lies in five fields of the state. -/
theorem congr (h : SameBank lo d s t) {t' : State} (hcpu : t'.cpu = t.cpu) (hvirt : t'.virt = t.virt)
    (hprio : t'.prioPriv = t.prioPriv) (hstore : t'.store = t.store) (hsrc : t'.sgiSrc = t.sgiSrc) :
    SameBank lo d s t' where
  cpuIf := by rw [State.cpuIf, hcpu]; exact h.cpuIf
  virtIf := by rw [State.virtIf, hvirt]; exact h.virtIf
  prio irq := by rw [State.prio_banked, hprio, ← State.prio_banked]; exact h.prio irq
  store irq := by rw [hstore]; exact h.store irq
  sgiSources i hlo := by rw [State.sgiSources, hsrc]; exact h.sgiSources i hlo

/-- A change of the store that keeps CPU `d`'s bits. -/
theorem onStore (h : SameBank lo d s t) {f : Store → Store}
    (hf : ∀ irq : Fin 32, Store.SameBits lo irq.val d s.store t.store →
      Store.SameBits lo irq.val d s.store (f t.store)) :
    SameBank lo d s (t.onStore f) := { h with store := fun irq => hf irq (h.store irq) }

theorem setCpuIf (h : SameBank lo d s t) (hd : d ≠ c) (r : CpuIf) : SameBank lo d s (t.setCpuIf c r) :=
  { h with cpuIf := by rw [State.setCpuIf_cpuIf, if_neg hd, h.cpuIf] }

theorem setVirtIf (h : SameBank lo d s t) (hd : d ≠ c) (v : VirtIf) : SameBank lo d s (t.setVirtIf c v) :=
  { h with virtIf := by rw [State.setVirtIf_virtIf, if_neg hd, h.virtIf] }

theorem setPrioPriv (h : SameBank lo d s t) (hd : d ≠ c) (j : Nat) (v : Prio) :
    SameBank lo d s (t.setPrioPriv c j v) :=
  { h with prio := fun irq => by rw [State.setPrioPriv_prio, if_neg fun ⟨hdc, _⟩ => hd hdc, h.prio irq] }

theorem setSgiSources (h : SameBank lo d s t) (hd : d ≠ c) (j : Nat) (v : CpuMask) :
    SameBank lo d s (t.setSgiSources c j v) :=
  { h with sgiSources := fun i hlo =>
      (State.setSgiSources_sgiSources ..).trans ((if_neg fun ⟨hdc, _⟩ => hd hdc).trans (h.sgiSources i hlo)) }

/-- A write of a one-bit-per-ID register, whose step keeps CPU `d`'s bits (R125). -/
theorem writeWord (h : SameBank lo d s t) (word : Nat) (data : Word) {f : Nat → Store → Store}
    (hf : ∀ (st : Store) (irq : Fin 32) (j : Nat), Store.SameBits lo irq.val d s.store st →
      Store.SameBits lo irq.val d s.store (f j st)) : SameBank lo d s (writeWord t word data f) :=
  h.onStore fun irq hbits => forWordIds_inv t.params word data f (Store.SameBits lo irq.val d s.store)
    (fun st j _ hst => hf st irq j hst) t.store hbits

/-- One byte of a SPENDSGIR or CPENDSGIR write acts on the writer's bank (R251, R252). -/
theorem writeSgiSources (h : SameBank lo d s t) (hd : d ≠ c) (i : Nat) (v : CpuMask) :
    SameBank lo d s (writeSgiSources c i v t) := by
  rw [Machine.writeSgiSources]
  split_ifs with hi
  · rw [← maskFor_sgi c hi]
    exact (h.setSgiSources hd i v).onStore fun _ hbits => hbits.setPending hd i _
  · exact h

theorem consumePending (h : SameBank lo d s t) (hd : d ≠ c) (irq : Nat) : SameBank lo d s (consumePending t c irq) := by
  rw [Machine.consumePending]
  split_ifs with hi
  · rw [← maskFor_sgi c hi]
    exact (h.setSgiSources hd irq _).onStore fun _ hbits => hbits.setPending hd irq _
  · exact h.onStore fun _ hbits => hbits.setPending hd irq false

/-- An acknowledge acts on its CPU's bank (R275). -/
theorem takeInterrupt (h : SameBank lo d s t) (hd : d ≠ c) (irq : Irq) : SameBank lo d s (takeInterrupt t c irq) :=
  ((h.consumePending hd irq.val).onStore fun _ hbits =>
    (hbits.setActive hd irq.val true).setSignaled hd irq.val true).setCpuIf hd _

/-- SGIR reaches every CPU of its target set, but nothing there besides the state of the SGIs (R231). -/
theorem raiseSgi (h16 : 16 ≤ lo) {sgi : Nat} (hsgi : sgi < 16) (c d : Cpu) (targets : CpuMask) (s : State) :
    SameBank lo d s (raiseSgi sgi c targets s) := by
  rw [raiseSgi_eq]
  refine { refl lo d s with
    store := fun irq => { Store.SameBits.refl lo irq.val d s.store with pending := fun hlo => ?_ }
    sgiSources := fun i hlo => absurd i.isLt (by omega) }
  refine (raiseSgi_pending sgi c targets s d (irq.castLE (by decide))).trans (if_neg ?_)
  rintro ⟨-, heq⟩
  rw [Fin.val_castLE] at heq
  omega

end SameBank

/-- The effect of an access leaves the banked state of every other CPU as it was, an SGIR write all but the SGIs. -/
theorem Effect.sameBank {i : Instr} {c d : Cpu} {s u : State} {lo init : Nat} (h : Effect i c s u)
    (haccess : initiatorOf i = some init) (hd : d ≠ c)
    (hsgir : 16 ≤ lo ∨ ∀ (init : Nat) (data : Word), i ≠ .wrGicdSgir init data) : SameBank lo d s u := by
  have hsame : SameBank lo d s s := .refl lo d s
  cases h
  case dctlr => exact hsame.congr rfl rfl rfl rfl rfl
  case enable => exact hsame.writeWord _ _ fun _ _ j hbits => hbits.enableId hd j
  case disable => exact hsame.writeWord _ _ fun _ _ j hbits => hbits.disableId hd j
  case pend => exact hsame.writeWord _ _ fun _ _ j hbits => hbits.pendId hd _ j
  case clearActive => exact hsame.writeWord _ _ fun _ _ j hbits => hbits.deactId hd j
  case prioPriv => exact forBytes_inv _ (SameBank lo d s) _ (fun _ _ ht => ht.setPrioPriv hd _ _) s hsame
  case prioSpi => rw [forBytes_setPrioSpi_eq]; exact hsame.congr rfl rfl rfl rfl rfl
  case targets => rw [forBytes_setTargets_eq]; exact hsame.congr rfl rfl rfl rfl rfl
  case icfgr word _ data _ =>
    rw [writeIcfgr_eq]
    exact hsame.onStore (f := fun st => { st with trigger := (writeIcfgr s word data).store.trigger })
      fun _ hbits => { hbits with }
  case sgir init data targets _ =>
    exact SameBank.raiseSgi (hsgir.resolve_right fun hne => hne init data rfl) (sgirSgi_lt data) c d targets s
  case sgiSources => exact forBytes_inv _ (SameBank lo d s) _ (fun _ _ ht => ht.writeSgiSources hd _ _) s hsame
  case cpuRegister => exact hsame.setCpuIf hd _
  case take => exact hsame.takeInterrupt hd _
  case endInOrder => exact (hsame.setCpuIf hd _).onStore fun _ hbits => hbits.deactivate hd _
  case endOutOfOrder => exact (hsame.setCpuIf hd _).onStore fun _ hbits => hbits.deactivate hd _
  case virtualRegister => exact hsame.setVirtIf hd _
  case apr => exact hsame.setVirtIf hd _
  case listReg => exact hsame.setVirtIf hd _
  case takeVirtual => exact hsame.setVirtIf hd _
  case endVirtual vid _ _ =>
    have hdrop := hsame.setVirtIf hd (virtualDrop s.params.aprSelect (s.virtIf c))
    rcases virtualDeactivate_effect (s.setVirtIf c (virtualDrop s.params.aprSelect (s.virtIf c))) c vid with
      h | ⟨v, h | ⟨pid, h⟩⟩ <;> rw [h]
    · exact hdrop
    · exact hdrop.setVirtIf hd v
    · exact (hdrop.setVirtIf hd v).onStore fun _ hbits => hbits.deactivate hd pid
  case lineLevel => cases haccess
  case lineEdge => cases haccess
  case reset => cases haccess

/-- A step that performs an access keeps the banked state of every other CPU; only GICD_SGIR writes reach its SGIs. -/
theorem step_access_sameBank {s t : State} {key : BitVec 16} {n : Width} {init lo : Nat} {data : Word} {d : Cpu}
    (h : step (s.deliver (.bus key n init data)) = .next t) (hd : d ≠ s.current init)
    (hsgir : 16 ≤ lo ∨ ¬(key = 0x2F00#16 ∧ n = .w4)) : SameBank lo d s t := by
  have hinit := decodeBus_initiator key n init data
  have hdecode : 16 ≤ lo ∨ ∀ (init' : Nat) (data' : Word), decodeBus key n init data ≠ .wrGicdSgir init' data' :=
    hsgir.imp_right fun hkey _ _ heq => hkey (key_of_decodeBus_sgir heq)
  obtain ⟨t', hexec, hsame⟩ := exec_completes (i := decodeBus key n init data) (c := s.current init) (s := s)
    (P := SameBank lo d s) (fun init' hi => by rw [Option.some.inj (hinit.symm.trans hi)]) (.refl lo d s)
    (fun _ he => he.sameBank hinit hd hdecode) (fun _ hu => hu.congr rfl rfl rfl rfl rfl)
    (fun _ _ _ hu => hu.congr rfl rfl rfl rfl rfl)
  rw [step_deliver_bus, hexec] at h
  cases h
  exact hsame

/-- Settles O58: `step_access_sameBank` for every access without the SGIs' state, and for all but SGIR with it. -/
theorem accessSparesOtherCpusBanks : Obligations.AccessSparesOtherCpusBanks := by
  intro s t key n init data d hstep hd
  have hbank : SameBank 16 d s t := step_access_sameBank hstep hd (.inl le_rfl)
  refine ⟨hbank.cpuIf, hbank.virtIf, fun irq => ?banked, fun hkey i => ?sgis⟩
  case banked =>
    obtain ⟨henabled, hactive, hlevel, hsignaled, hpending⟩ := hbank.store irq
    exact ⟨hbank.prio irq, henabled, hactive, hlevel, hsignaled, hpending⟩
  case sgis =>
    have hall : SameBank 0 d s t := step_access_sameBank hstep hd (.inr hkey)
    exact ⟨hall.sgiSources i (Nat.zero_le _), (hall.store (i.castLE (by decide))).pending (Nat.zero_le _)⟩

end Sys2Proof.Machine
end

section
/-! SUPPORT. Two invariants of the interrupt state store (10_state.md): an SGI is pending exactly where a source of it
is recorded (R36, R253), and the masks of an SPI are uniform (R34). -/

namespace Sys2Proof.Machine

/-! ## SGIs pending in step with their sources (R36, R253) -/

theorem maskAt_setMask_of_ne (t : Vector CpuMask 512) {i j : Nat} (h : i ≠ j) (v : Bool) (m : CpuMask) :
    maskAt (setMask t j v m) i = maskAt t i := by
  rw [maskAt_setMask, if_neg fun ⟨hij, _⟩ => h hij]

/-- No SGI is level-triggered, so nothing of one is caught up (R32). -/
theorem Store.catchUp_pending_sgi (st : Store) (j : Nat) (m : CpuMask) (i : Fin 16) :
    maskAt (st.catchUp j m).pending i.val = maskAt st.pending i.val := by
  rw [Store.catchUp_pending]
  split_ifs with h
  · obtain ⟨hlevel, -⟩ := h
    refine maskAt_setMask_of_ne _ ?_ true m
    rintro rfl
    rw [Store.triggerOf_sgi st i.isLt] at hlevel
    cases hlevel
  · rfl

theorem Store.deactivate_pending_sgi (st : Store) (j : Nat) (m : CpuMask) (i : Fin 16) :
    maskAt (st.deactivate j m).pending i.val = maskAt st.pending i.val :=
  Store.catchUp_pending_sgi _ j m i

/-- The ISPENDR and ICPENDR writes spare the SGIs (R210, R211). -/
theorem pendId_pending_sgi (v : Bool) (c : Cpu) (j : Nat) (st : Store) (i : Fin 16) :
    maskAt (pendId v c j st).pending i.val = maskAt st.pending i.val := by
  rw [pendId_eq]
  dsimp only
  split_ifs
  · exact maskAt_setMask_of_ne _ (by omega) v _
  · rfl

/-- No input line drives an SGI (R170). -/
theorem sgi_ne_port_irq (i : Fin 16) (port : Port) : i.val ≠ port.irq := by
  cases port <;> simp only [Port.irq] <;> omega

theorem lineLevelStore_pending_sgi (port : Port) (m : CpuMask) (v : Bool) (st : Store) (i : Fin 16) :
    maskAt (lineLevelStore port.irq m v st).pending i.val = maskAt st.pending i.val := by
  have hne := sgi_ne_port_irq i port
  rw [lineLevelStore_eq]
  dsimp only
  split_ifs
  · exact maskAt_setMask_of_ne _ hne _ m
  · exact maskAt_setMask_of_ne _ hne _ m
  · rfl

theorem lineEdgeStore_pending_sgi (gated : Bool) (port : Port) (m : CpuMask) (v : Bool) (st : Store) (i : Fin 16) :
    maskAt (lineEdgeStore gated port.irq m v st).pending i.val = maskAt st.pending i.val := by
  have hne := sgi_ne_port_irq i port
  rw [lineEdgeStore_eq]
  dsimp only
  split_ifs
  · exact maskAt_setMask_of_ne _ hne _ m
  · rfl

namespace State.SgiSourcesMatch

variable {s : State}

/-- The invariant depends on the sources and the pending masks of the SGIs. -/
theorem congr (hs : s.SgiSourcesMatch) {t : State}
    (hpending : ∀ i : Fin 16, maskAt t.store.pending i.val = maskAt s.store.pending i.val)
    (hsrc : t.sgiSrc = s.sgiSrc) : t.SgiSourcesMatch := by
  intro c i
  rw [hpending, hs c i, State.sgiSources, State.sgiSources, hsrc]

/-- A write of a one-bit-per-ID register whose step spares the SGIs' pending masks (R125). -/
theorem writeWord (hs : s.SgiSourcesMatch) (word : Nat) (data : Word) {f : Nat → Store → Store}
    (hf : ∀ (st : Store) (j : Nat) (i : Fin 16), maskAt (f j st).pending i.val = maskAt st.pending i.val) :
    (writeWord s word data f).SgiSourcesMatch :=
  hs.congr (fun i => forWordIds_keep s.params word data f (fun st => maskAt st.pending i.val)
    (fun st j => hf st j i) s.store) rfl

/-- A write of the sources of an SGI that sets its pending bit by what is left (R251, R252, R275). -/
theorem setSources (hs : s.SgiSourcesMatch) (c : Cpu) {j : Nat} (hj : j < 16) (v : CpuMask) :
    ((s.setSgiSources c j v).onStore (fun st => st.setPending j (v != 0#8) (bit c.val))).SgiSourcesMatch := by
  intro d i
  have hlt : j < 512 := by omega
  rw [State.onStore_sgiSources, State.setSgiSources_sgiSources, State.onStore_store, State.setSgiSources_store,
    Store.setPending_pending, setMask_getLsbD]
  have hbit : (bit c.val).getLsbD d.val = true ↔ d = c := by rw [bit_getLsbD, decide_eq_true_iff]
  by_cases h : i.val = j ∧ d = c
  · obtain ⟨hi, hd⟩ := h
    rw [if_pos ⟨hi, hlt, hbit.mpr hd⟩, if_pos ⟨hd, hi, hj⟩]
  · rw [if_neg (by tauto), if_neg (by tauto), hs d i]

/-- The acknowledge of an SGI consumes one source, and keeps the SGI pending while one is left (R275). -/
theorem consumePending (hs : s.SgiSourcesMatch) (c : Cpu) (irq : Nat) :
    (consumePending s c irq).SgiSourcesMatch := by
  rw [Machine.consumePending]
  split_ifs with h
  · exact hs.setSources c h _
  · exact hs.congr (fun i => maskAt_setMask_of_ne _ (by simp only [nSgi] at h; omega) _ _) rfl

/-- Raising an SGI adds a source, so the SGI is pending with one (R231). -/
theorem raiseSgiOn (hs : s.SgiSourcesMatch) {sgi : Nat} (hsgi : sgi < 16) (c t : Cpu) :
    (raiseSgiOn sgi c t s).SgiSourcesMatch := by
  have hsource : (s.sgiSources t sgi ||| bit c.val) ≠ 0#8 := by
    refine fun hz => absurd ((mask_eq_zero_iff _).mp hz c) ?_
    rw [BitVec.getLsbD_or, bit_getLsbD, decide_eq_true rfl, Bool.or_true]
    decide
  have h := hs.setSources t hsgi (s.sgiSources t sgi ||| bit c.val)
  rwa [bne_iff_ne.mpr hsource] at h

theorem raiseSgi (hs : s.SgiSourcesMatch) {sgi : Nat} (hsgi : sgi < 16) (c : Cpu) (targets : CpuMask) :
    (raiseSgi sgi c targets s).SgiSourcesMatch := by
  refine foldl_inv State.SgiSourcesMatch _ _ (fun t d _ ht => ?_) s hs
  split_ifs
  · exact ht.raiseSgiOn hsgi c d
  · exact ht

theorem writeSgiSources (hs : s.SgiSourcesMatch) (c : Cpu) (i : Nat) (v : CpuMask) :
    (writeSgiSources c i v s).SgiSourcesMatch := by
  rw [Machine.writeSgiSources]
  split_ifs with hi
  · exact hs.setSources c hi v
  · exact hs

theorem resetWith (p : Params) : (State.resetWith p).SgiSourcesMatch := by
  intro c i
  rw [State.resetWith_sgiSources, State.resetWith_store, Store.reset, maskAt_replicate]
  exact BitVec.getLsbD_zero

theorem effect {i : Instr} {c : Cpu} {s u : State} (h : Effect i c s u) (hs : s.SgiSourcesMatch) :
    u.SgiSourcesMatch := by
  cases h
  case enable => exact hs.writeWord _ _ fun st j i => Store.catchUp_pending_sgi (st.enable j _) j _ i
  case disable => exact hs.writeWord _ _ fun _ _ _ => rfl
  case pend v _ _ _ _ => exact hs.writeWord _ _ fun st j i => pendId_pending_sgi v c j st i
  case clearActive => exact hs.writeWord _ _ fun _ _ _ => rfl
  case prioPriv => rw [forBytes_setPrioPriv_eq]; exact hs
  case prioSpi => rw [forBytes_setPrioSpi_eq]; exact hs
  case targets => rw [forBytes_setTargets_eq]; exact hs
  case icfgr => rw [writeIcfgr_eq]; exact hs
  case sgir data targets _ => exact hs.raiseSgi (sgirSgi_lt data) c targets
  case sgiSources => exact forBytes_inv _ State.SgiSourcesMatch _ (fun _ _ ht => ht.writeSgiSources c _ _) s hs
  case take _ irq _ => exact hs.consumePending c irq.val
  case endInOrder irq _ _ _ => exact hs.congr (Store.deactivate_pending_sgi s.store irq.val _) rfl
  case endOutOfOrder irq _ _ _ _ _ _ => exact hs.congr (Store.deactivate_pending_sgi s.store irq.val _) rfl
  case endVirtual vid _ _ =>
    rcases virtualDeactivate_effect (s.setVirtIf c (virtualDrop s.params.aprSelect (s.virtIf c))) c vid with
      h | ⟨v, h | ⟨pid, h⟩⟩ <;> rw [h]
    · exact hs
    · exact hs
    · exact hs.congr (Store.deactivate_pending_sgi s.store pid _) rfl
  case lineLevel port v _ => exact hs.congr (lineLevelStore_pending_sgi port _ v s.store) rfl
  case lineEdge port v _ => exact hs.congr (lineEdgeStore_pending_sgi _ port _ v s.store) rfl
  case reset => exact resetWith s.params
  all_goals exact hs

end State.SgiSourcesMatch

/-- Settles O51: every effect keeps the invariant, which does not see UPDATE, the response and the requests. -/
theorem stepKeepsSgiPendingInStepWithSources : Obligations.StepKeepsSgiPendingInStepWithSources :=
  step_keeps State.SgiSourcesMatch (fun _ _ _ hs => hs) (fun _ _ hs => hs) (fun _ hs => hs)
    (fun _ _ _ _ h hs => hs.effect h)

/-! ## Uniform masks of SPIs (R34) -/

/-- All eight bits of each mask of an SPI in this table are equal. -/
def SpiUniform (t : Vector CpuMask 512) : Prop := ∀ irq : Irq, 32 ≤ irq.val → Uniform (maskAt t irq.val)

/-- The mask of an SPI is every CPU (R33). -/
theorem maskFor_spi {irq : Nat} (c : Cpu) (h : 32 ≤ irq) : maskFor irq c = allCpus := by
  rw [maskFor_eq, if_neg (Nat.not_lt.mpr h)]

/-- A write under `mask_for` gives an SPI eight equal bits (R33). -/
theorem SpiUniform.setMask {t : Vector CpuMask 512} (h : SpiUniform t) (j : Nat) (v : Bool) (c : Cpu) :
    SpiUniform (setMask t j v (maskFor j c)) := by
  intro irq hspi
  rw [maskAt_setMask_irq]
  split_ifs with hj hv
  · rw [← hj, maskFor_spi c hspi]
    exact .inr BitVec.or_allOnes
  · rw [← hj, maskFor_spi c hspi]
    exact .inl BitVec.and_zero
  · exact h irq hspi

/-- All eight bits of each of the five masks of every SPI are equal. -/
structure Store.SpisUniform (st : Store) : Prop where
  enabled : SpiUniform st.enabled
  pending : SpiUniform st.pending
  active : SpiUniform st.active
  level : SpiUniform st.level
  signaled : SpiUniform st.signaled

theorem State.spiMasksUniform_iff (s : State) : s.SpiMasksUniform ↔ s.store.SpisUniform := by
  simp only [State.SpiMasksUniform, imp_and, forall_and]
  exact ⟨fun ⟨he, hp, ha, hl, hg⟩ => ⟨he, hp, ha, hl, hg⟩, fun ⟨he, hp, ha, hl, hg⟩ => ⟨he, hp, ha, hl, hg⟩⟩

/-- The mask of a port is `mask_for` of its ID on some CPU (R33, R170). -/
theorem exists_portMask_eq (port : Port) : ∃ c : Cpu, portMask port = maskFor port.irq c := by
  cases port with
  | ppi c k =>
    have := k.isLt
    exact ⟨c, by rw [portMask, maskFor_eq, Port.irq, if_pos (by omega)]⟩
  | spi k => exact ⟨0, (maskFor_spi 0 (Nat.le_add_right 32 _)).symm⟩

namespace Store.SpisUniform

variable {st : Store}

theorem setEnabled (h : st.SpisUniform) (j : Nat) (v : Bool) (c : Cpu) :
    (st.setEnabled j v (maskFor j c)).SpisUniform := { h with enabled := h.enabled.setMask j v c }

theorem setPending (h : st.SpisUniform) (j : Nat) (v : Bool) (c : Cpu) :
    (st.setPending j v (maskFor j c)).SpisUniform := { h with pending := h.pending.setMask j v c }

theorem setActive (h : st.SpisUniform) (j : Nat) (v : Bool) (c : Cpu) :
    (st.setActive j v (maskFor j c)).SpisUniform := { h with active := h.active.setMask j v c }

theorem setLevel (h : st.SpisUniform) (j : Nat) (v : Bool) (c : Cpu) :
    (st.setLevel j v (maskFor j c)).SpisUniform := { h with level := h.level.setMask j v c }

theorem setSignaled (h : st.SpisUniform) (j : Nat) (v : Bool) (c : Cpu) :
    (st.setSignaled j v (maskFor j c)).SpisUniform := { h with signaled := h.signaled.setMask j v c }

/-- The pending bit of an SGI is one CPU's, which is its `mask_for` (R33). -/
theorem setPending_sgi (h : st.SpisUniform) {j : Nat} (hj : j < 16) (v : Bool) (c : Cpu) :
    (st.setPending j v (bit c.val)).SpisUniform := by
  rw [← maskFor_sgi c hj]
  exact h.setPending j v c

theorem catchUp (h : st.SpisUniform) (j : Nat) (c : Cpu) : (st.catchUp j (maskFor j c)).SpisUniform := by
  rw [Store.catchUp]
  split_ifs
  · exact h.setPending j true c
  · exact h

theorem deactivate (h : st.SpisUniform) (j : Nat) (c : Cpu) : (st.deactivate j (maskFor j c)).SpisUniform :=
  ((h.setActive j false c).setSignaled j false c).catchUp j c

theorem pendId (h : st.SpisUniform) (v : Bool) (c : Cpu) (j : Nat) : (pendId v c j st).SpisUniform := by
  rw [Machine.pendId]
  split_ifs
  · exact h.setPending j v c
  · exact h

theorem forWordIds (h : st.SpisUniform) (p : Params) (word : Nat) (data : Word) {f : Nat → Store → Store}
    (hf : ∀ (st : Store) (j : Nat), st.SpisUniform → (f j st).SpisUniform) :
    (forWordIds p word data f st).SpisUniform :=
  forWordIds_inv p word data f Store.SpisUniform (fun st j _ hst => hf st j hst) st h

theorem lineLevelStore (h : st.SpisUniform) (port : Port) (v : Bool) :
    (lineLevelStore port.irq (portMask port) v st).SpisUniform := by
  obtain ⟨c, hmask⟩ := exists_portMask_eq port
  rw [Machine.lineLevelStore, hmask]
  split_ifs
  · exact h.setLevel port.irq v c
  · exact (h.setLevel port.irq v c).setPending port.irq true c
  · exact (h.setLevel port.irq v c).setPending port.irq false c

theorem lineEdgeStore (h : st.SpisUniform) (gated : Bool) (port : Port) (v : Bool) :
    (lineEdgeStore gated port.irq (portMask port) v st).SpisUniform := by
  obtain ⟨c, hmask⟩ := exists_portMask_eq port
  rw [Machine.lineEdgeStore, hmask]
  split_ifs
  · exact (h.setLevel port.irq v c).setPending port.irq true c
  · exact h.setLevel port.irq v c

theorem consumePending {s : State} (h : s.store.SpisUniform) (c : Cpu) (irq : Nat) :
    (consumePending s c irq).store.SpisUniform := by
  rw [Machine.consumePending]
  split_ifs with hsgi
  · exact h.setPending_sgi hsgi _ c
  · exact h.setPending irq false c

theorem raiseSgi {s : State} (h : s.store.SpisUniform) {sgi : Nat} (hsgi : sgi < 16) (c : Cpu) (targets : CpuMask) :
    (raiseSgi sgi c targets s).store.SpisUniform := by
  refine foldl_inv (fun t : State => t.store.SpisUniform) _ _ (fun t d _ ht => ?_) s h
  split_ifs
  · exact ht.setPending_sgi hsgi true d
  · exact ht

theorem writeSgiSources {s : State} (h : s.store.SpisUniform) (c : Cpu) (i : Nat) (v : CpuMask) :
    (writeSgiSources c i v s).store.SpisUniform := by
  rw [Machine.writeSgiSources]
  split_ifs with hsgi
  · exact h.setPending_sgi hsgi _ c
  · exact h

theorem reset : Store.reset.SpisUniform := by
  have hzero : SpiUniform (Vector.replicate 512 0#8) := fun irq _ => .inl (maskAt_replicate irq.val)
  exact ⟨hzero, hzero, hzero, hzero, hzero⟩

theorem effect {i : Instr} {c : Cpu} {s u : State} (h : Effect i c s u) (hs : s.store.SpisUniform) :
    u.store.SpisUniform := by
  cases h
  case enable => exact hs.forWordIds _ _ _ fun _ j ht => (ht.setEnabled j true c).catchUp j c
  case disable => exact hs.forWordIds _ _ _ fun _ j ht => ht.setEnabled j false c
  case pend v _ _ _ _ => exact hs.forWordIds _ _ _ fun _ j ht => ht.pendId v c j
  case clearActive => exact hs.forWordIds _ _ _ fun _ j ht => ht.setActive j false c
  case prioPriv => rw [forBytes_setPrioPriv_eq]; exact hs
  case prioSpi => rw [forBytes_setPrioSpi_eq]; exact hs
  case targets => rw [forBytes_setTargets_eq]; exact hs
  case icfgr => rw [writeIcfgr_eq]; exact { hs with }
  case sgir data targets _ => exact hs.raiseSgi (sgirSgi_lt data) c targets
  case sgiSources =>
    exact forBytes_inv _ (fun t : State => t.store.SpisUniform) _ (fun _ _ ht => ht.writeSgiSources c _ _) s hs
  case take _ irq _ => exact ((hs.consumePending c irq.val).setActive irq.val true c).setSignaled irq.val true c
  case endInOrder irq _ _ _ => exact hs.deactivate irq.val c
  case endOutOfOrder irq _ _ _ _ _ _ => exact hs.deactivate irq.val c
  case endVirtual vid _ _ =>
    rcases virtualDeactivate_effect (s.setVirtIf c (virtualDrop s.params.aprSelect (s.virtIf c))) c vid with
      h | ⟨v, h | ⟨pid, h⟩⟩ <;> rw [h]
    · exact hs
    · exact hs
    · exact hs.deactivate pid c
  case lineLevel port v _ => exact hs.lineLevelStore port v
  case lineEdge port v _ => exact hs.lineEdgeStore _ port v
  case reset => exact Store.SpisUniform.reset
  all_goals exact hs

end Store.SpisUniform

/-- Settles O52: every effect keeps the store uniform, and nothing else of a step writes the store. -/
theorem stepKeepsSpiMasksUniform : Obligations.StepKeepsSpiMasksUniform := by
  intro s t hs
  rw [State.spiMasksUniform_iff] at hs ⊢
  exact step_keeps (fun s => s.store.SpisUniform) (fun _ _ _ hs => hs) (fun _ _ hs => hs) (fun _ hs => hs)
    (fun _ _ _ _ h hs => hs.effect h) s t hs

end Sys2Proof.Machine
end

section
/-! SUPPORT. The laws of the store (40_state_store.md R165), and the steps that have nothing to perform. -/

namespace Sys2Proof.Machine

/-! ## The laws of the store (R165) -/

/-- Mask tables with equal bits are equal. -/
theorem mask_table_ext {t u : Vector CpuMask 512}
    (h : ∀ (irq : Nat) (c : Cpu), (maskAt t irq).getLsbD c.val = (maskAt u irq).getLsbD c.val) : t = u :=
  mask_ext fun irq _ => mask_eq_of_bits (h irq)

theorem setMask_setMask_self (t : Vector CpuMask 512) (irq : Nat) (v : Bool) (m : CpuMask) :
    setMask (setMask t irq v m) irq v m = setMask t irq v m := by
  refine mask_table_ext fun j c => ?_
  simp only [setMask_getLsbD]
  split_ifs <;> rfl

/-- Set then clear is clear (R165). -/
theorem setMask_clear_set (t : Vector CpuMask 512) (irq : Nat) (m : CpuMask) :
    setMask (setMask t irq true m) irq false m = setMask t irq false m := by
  refine mask_table_ext fun j c => ?_
  simp only [setMask_getLsbD]
  split_ifs <;> rfl

theorem setMask_clear_eq_self_iff (t : Vector CpuMask 512) (irq : Nat) (m : CpuMask) :
    setMask t irq false m = t ↔ 512 ≤ irq ∨ maskAt t irq &&& m = 0#8 := by
  constructor
  · intro h
    refine (Nat.lt_or_ge irq 512).symm.imp_right fun hlt => (mask_eq_zero_iff _).mpr fun c => ?_
    have hbit := setMask_getLsbD t irq false m irq c
    rw [h] at hbit
    rw [BitVec.getLsbD_and, hbit]
    split_ifs with hm
    · rfl
    · rw [Bool.eq_false_iff.mpr fun hc => hm ⟨rfl, hlt, hc⟩, Bool.and_false]
  · intro h
    refine mask_table_ext fun j c => ?_
    rw [setMask_getLsbD]
    split_ifs with hm
    · obtain ⟨rfl, hlt, hmc⟩ := hm
      have hbit := (mask_eq_zero_iff _).mp (h.resolve_left (Nat.not_le.mpr hlt)) c
      rw [BitVec.getLsbD_and, hmc, Bool.and_true] at hbit
      exact hbit.symm
    · rfl

/-- Mutations of different IDs, or of disjoint masks, write different bits. -/
theorem setMask_comm (t : Vector CpuMask 512) {irq irq' : Nat} {m m' : CpuMask} (h : irq ≠ irq' ∨ m &&& m' = 0#8)
    (v v' : Bool) : setMask (setMask t irq v m) irq' v' m' = setMask (setMask t irq' v' m') irq v m := by
  refine mask_table_ext fun j c => ?_
  simp only [setMask_getLsbD]
  split_ifs with h1 h2
  · obtain ⟨rfl, -, hm'⟩ := h1
    obtain ⟨rfl, -, hm⟩ := h2
    have hbit := (mask_eq_zero_iff _).mp (h.resolve_left fun hne => hne rfl) c
    rw [BitVec.getLsbD_and, hm, hm'] at hbit
    cases hbit
  all_goals rfl

/-- Settles O16: each law says of which bits are written, and with what. -/
theorem storeLaws : Obligations.StoreLaws := by
  intro t irq v m
  rw [setMask_clear_set]
  refine ⟨setMask_setMask_self t irq v m, fun hlt => ?_, setMask_clear_eq_self_iff t irq m,
    fun irq' v' m' h => setMask_comm t h v v'⟩
  rw [maskAt_setMask, if_pos ⟨rfl, hlt⟩, if_neg (by decide)]
  constructor
  · rw [BitVec.and_assoc, BitVec.and_self]
  · rw [BitVec.and_assoc, BitVec.and_comm (~~~m), BitVec.and_not_self]
    exact BitVec.and_zero

/-! ## Steps without a request to perform (R170, R434, R455) -/

/-- Settles O7: an empty inbox gives nothing to fetch, and the event of an absent port does not decode. -/
theorem stepWithoutDeliverableRequest : Obligations.StepWithoutDeliverableRequest := by
  refine ⟨fun s hempty => ?_, fun s port v habsent => ?_⟩
  · rw [step, State.fetch, hempty]
  · have hdecode : s.decodeRequest (.line port v) = .error (.noSuchInput port) := by
      rw [State.decodeRequest, decode, habsent]
      rfl
    rw [step, fetch_deliver]
    dsimp only
    rw [hdecode]

end Sys2Proof.Machine
end

section
/-! SUPPORT. Accesses: what an unconnected initiator makes of one (60_exceptions.md R462), and which reads have side
effects (20_memory.md R87). -/

namespace Sys2Proof.Machine

/-! ## Accesses by their current CPU (R82, R462) -/

/-- The access is performed for its current CPU: who made it shows in the initiator's diagnostic alone. -/
def PerformedForCurrent (access : Nat → Instr) : Prop :=
  ∀ (s : State) (init init' : Nat), s.current init = s.current init' →
    ∃ (u : State) (resp : Response) (diag : List Diag), exec (access init) s = .next (u.respond init resp diag) ∧
      exec (access init') s = .next (u.respond init' resp diag)

theorem performed_wrGicdIcactiver0 (data : Word) : PerformedForCurrent (.wrGicdIcactiver0 · data) := by
  intro s init init' h
  simp only [exec, execWrGicdIcactiver0, h]
  split_ifs <;> exact ⟨_, _, _, rfl, rfl⟩

theorem performed_wrGicdSgir (data : Word) : PerformedForCurrent (.wrGicdSgir · data) := by
  intro s init init' h
  simp only [exec, execWrGicdSgir, h]
  cases sgirTargets s.params (s.current init') data <;> exact ⟨_, _, _, rfl, rfl⟩

theorem performed_rdGiccIar : PerformedForCurrent (.rdGiccIar ·) := by
  intro s init init' h
  simp only [exec, execRdGiccIar, h]
  cases viable s (s.current init') <;> exact ⟨_, _, _, rfl, rfl⟩

theorem performed_wrGiccEoir (data : Word) : PerformedForCurrent (.wrGiccEoir · data) := by
  intro s init init' h
  simp only [exec, execWrGiccEoir, h]
  cases endInterrupt s (s.current init') (eoirId data) <;> exact ⟨_, _, _, rfl, rfl⟩

theorem performed_rdGiccHppir : PerformedForCurrent (.rdGiccHppir ·) := by
  intro s init init' h
  simp only [exec, execRdGiccHppir, h]
  cases (s.arbOut (s.current init')).hppir <;> exact ⟨_, _, _, rfl, rfl⟩

theorem performed_rdGicvIar : PerformedForCurrent (.rdGicvIar ·) := by
  intro s init init' h
  simp only [exec, execRdGicvIar, h]
  cases viableVirtual s (s.current init') <;> exact ⟨_, _, _, rfl, rfl⟩

theorem performed_wrGicvEoir (data : Word) : PerformedForCurrent (.wrGicvEoir · data) := by
  intro s init init' h
  simp only [exec, execWrGicvEoir, h]
  cases endVirtual s (s.current init') (data.extractLsb' 0 10) <;> exact ⟨_, _, _, rfl, rfl⟩

theorem performed_rdGicvHppir : PerformedForCurrent (.rdGicvHppir ·) := by
  intro s init init' h
  simp only [exec, execRdGicvHppir, h]
  cases (s.arbOut (s.current init')).vhppir <;> exact ⟨_, _, _, rfl, rfl⟩

/-- Every register row performs its access for the current CPU. -/
theorem rows_performed : ∀ r ∈ rows, ∀ (off : Nat) (n : Width) (data : Word),
    PerformedForCurrent (r.build off n · data) := by
  simp only [rows, distributorRows, cpuRows, vcpuRows, vifctrlRows, oneWord, wordArray, byteArray,
    List.forall_mem_append, List.forall_mem_cons, List.not_mem_nil, false_implies, implies_true, and_true,
    performed_wrGicdIcactiver0, performed_wrGicdSgir, performed_rdGiccIar, performed_wrGiccEoir,
    performed_rdGiccHppir, performed_rdGicvIar, performed_wrGicvEoir, performed_rdGicvHppir, true_and]
  and_intros
  all_goals
    intro _ _ _ s init init' hcurrent
    refine ⟨_, _, _, rfl, ?_⟩
    -- A meaning that reads nothing banked does not speak of the current CPU.
    try rw [hcurrent]
    rfl

/-- So does the catch-all. -/
theorem decodeBus_performed (key : BitVec 16) (n : Width) (data : Word) :
    PerformedForCurrent (decodeBus key n · data) := by
  simp only [decodeBus]
  cases hrow : selectRow key n with
  | some r => exact rows_performed r (selectRow_eq_some hrow).1 _ _ _
  | none => exact fun _ _ _ _ => ⟨_, _, _, rfl, rfl⟩

theorem initiatorDiag_of_connected {p : Params} {init : Nat} (h : init < p.numCpu) : initiatorDiag p init = [] :=
  if_pos h

theorem initiatorDiag_of_unconnected {p : Params} {init : Nat} (h : p.numCpu ≤ init) :
    initiatorDiag p init = [.accessFromUnmappedCpu init] := if_neg (Nat.not_lt.mpr h)

/-- Settles O10: both accesses have CPU 0 as the current CPU. -/
theorem unmappedInitiatorActsAsCpuZero : Obligations.UnmappedInitiatorActsAsCpuZero := by
  intro s key n init data hinit
  have hcurrent : s.current 0 = s.current init := by rw [current_zero, current_of_le s init hinit]
  obtain ⟨u, resp, diag, hzero, hunmapped⟩ := decodeBus_performed key n data s 0 init hcurrent
  have hparams : u.params = s.params := by
    obtain ⟨t, ht, hkept, -⟩ := everyInstructionCompletes (decodeBus key n 0 data) s
    obtain rfl : u.respond 0 resp diag = t := by rw [hzero] at ht; exact Host.Outcome.next.inj ht
    exact hkept
  rw [State.respond, hparams, initiatorDiag_of_connected s.params.numCpu_pos] at hzero
  rw [State.respond, hparams, initiatorDiag_of_unconnected hinit] at hunmapped
  exact ⟨u, resp, diag, hzero, hunmapped⟩

/-! ## Reads without side effects (R87) -/

/-- The access of initiator `init` changes nothing but what the step gives the outside. -/
def OnlyResponds (i : Instr) (init : Nat) : Prop :=
  ∀ s : State, ∃ (resp : Response) (diag : List Diag), exec i s = .next (s.respond init resp diag)

theorem onlyResponds_rdGiccHppir (init : Nat) : OnlyResponds (.rdGiccHppir init) init := by
  intro s
  obtain ⟨⟨v, hexec, -⟩, -⟩ := highestPendingReads s init _ rfl
  exact ⟨_, _, hexec⟩

theorem onlyResponds_rdGicvHppir (init : Nat) : OnlyResponds (.rdGicvHppir init) init := by
  intro s
  obtain ⟨-, v, hexec, -⟩ := highestPendingReads s init _ rfl
  exact ⟨_, _, hexec⟩

/-- Every read row but those of GICC_IAR and GICV_IAR only responds: the simplifier reads the direction off the pattern,
which leaves those rows. -/
theorem rows_onlyRespond : ∀ r ∈ rows, keyDir r.pattern = .read → r.pattern ≠ 0x400C#16 → r.pattern ≠ 0xC00C#16 →
    ∀ (off : Nat) (n : Width) (init : Nat) (data : Word), OnlyResponds (r.build off n init data) init := by
  simp only [rows, distributorRows, cpuRows, vcpuRows, vifctrlRows, oneWord, wordArray, byteArray,
    List.forall_mem_append, List.forall_mem_cons, List.not_mem_nil, false_implies, implies_true, and_true, true_and,
    keyDir, BitVec.reduceToNat, Nat.reduceDiv, Nat.reduceMod, reduceIte, reduceCtorEq, ne_eq, not_true, BitVec.reduceEq,
    true_implies, not_false_iff, onlyResponds_rdGiccHppir, onlyResponds_rdGicvHppir]
  and_intros
  all_goals exact fun _ _ _ _ _ => ⟨_, _, rfl⟩

/-- Only the key of a register that stands alone selects the row of that register. -/
theorem pattern_ne_of_accepts {r : Row} (hr : r ∈ rows) {key k : BitVec 16} {n : Width} (hacc : r.accepts key n = true)
    (hkey : key ≠ k) (hk : keyOff k ≠ 0) : r.pattern ≠ k := by
  rintro rfl
  rcases rows_shape r hr with ⟨-, hoff⟩ | ⟨hmask, -⟩
  · exact hk hoff
  · obtain ⟨hpattern, -⟩ := (accepts_iff r key n).mp hacc
    rw [hmask] at hpattern
    exact hkey (BitVec.and_allOnes.symm.trans hpattern)

/-- Settles O9: a read falls to a read row, which is not one of the two, or to the catch-all. -/
theorem onlyIarReadsHaveSideEffects : Obligations.OnlyIarReadsHaveSideEffects := by
  intro s key n init data hread hgicc hgicv
  rw [step_deliver_bus, decodeBus]
  cases hrow : selectRow key n with
  | some r =>
    obtain ⟨hr, hacc⟩ := selectRow_eq_some hrow
    obtain ⟨⟨-, hdir⟩, -⟩ := (accepts_iff_fields hr key n).mp hacc
    exact rows_onlyRespond r hr (hdir.symm.trans hread) (pattern_ne_of_accepts hr hacc hgicc (by decide))
      (pattern_ne_of_accepts hr hacc hgicv (by decide)) _ _ _ _ s
  | none => exact ⟨_, _, exec_accessError key n init _ s⟩

end Sys2Proof.Machine
end

section
/-! SUPPORT. The acknowledge (42_cpu_interface.md, 45_arbitration.md): when it takes an interrupt (R405, R411), and what
its end of interrupt restores (R286). -/

namespace Sys2Proof.Machine

/-! ## What an acknowledge changes (R275, R366) -/

/-- An acknowledge leaves its CPU with the interrupt on top of the stack (R275). -/
theorem takeInterrupt_cpuIf (s : State) (c d : Cpu) (irq : Irq) :
    (takeInterrupt s c irq).cpuIf d =
      if d = c then (s.cpuIf c).push irq (s.prio irq.val c) else s.cpuIf d := by
  rw [takeInterrupt_eq]
  exact State.setCpuIf_cpuIf s c d _

theorem takeInterrupt_prio (s : State) (c d : Cpu) (irq : Irq) (j : Nat) :
    (takeInterrupt s c irq).prio j d = s.prio j d := by rw [takeInterrupt_eq]; rfl

/-- A virtual acknowledge leaves the entry it takes not pending (R366). -/
theorem takeVirtual_pending (sel : AprSelect) (v : VirtIf) (i : LrIx) :
    ((takeVirtual sel v i).listReg i).pending = false :=
  congrArg ListReg.pending (VirtIf.setListReg_listReg_self v i _)

/-! ## The output lines (R405, R411) -/

/-- An acknowledge that takes an interrupt changes the preemption stack, so the read that changes nothing takes none. -/
theorem exec_rdGiccIar_spurious_iff (s : State) (init : Nat) :
    exec (.rdGiccIar init) s = .next (s.respond init (.okData 1023#32) []) ↔ viable s (s.current init) = none := by
  refine ⟨fun h => ?_, exec_rdGiccIar_of_none⟩
  cases hviable : viable s (s.current init) with
  | none => rfl
  | some irq =>
    rw [exec_rdGiccIar_of_some hviable] at h
    have hstk := congrArg (fun t : State => (t.cpuIf (s.current init)).stk) (Host.Outcome.next.inj h)
    simp only [State.respond_cpuIf, update_cpuIf, takeInterrupt_cpuIf, if_true] at hstk
    exact absurd hstk (List.cons_ne_self irq _)

/-- A virtual acknowledge that takes a pending entry leaves it not pending. -/
theorem exec_rdGicvIar_spurious_iff (s : State) (init : Nat)
    (hpending : ∀ i : LrIx, viableVirtual s (s.current init) = some i →
      ((s.virtIf (s.current init)).listReg i).pending = true) :
    exec (.rdGicvIar init) s = .next (s.respond init (.okData 1023#32) []) ↔
      viableVirtual s (s.current init) = none := by
  refine ⟨fun h => ?_, exec_rdGicvIar_of_none⟩
  cases hviable : viableVirtual s (s.current init) with
  | none => rfl
  | some i =>
    rw [exec, execRdGicvIar, hviable] at h
    have hentry := congrArg (fun t : State => ((t.virtIf (s.current init)).listReg i).pending) (Host.Outcome.next.inj h)
    simp only [State.respond_virtIf, update_virtIf, State.setVirtIf_virtIf_self, takeVirtual_pending,
      hpending i hviable] at hentry
    cases hentry

theorem any_eq_false_iff_filter_eq_none {α : Type} (p : α → Bool) (o : Option α) :
    o.any p = false ↔ o.filter p = none := by
  rw [← Option.isSome_filter, Option.isSome_eq_false_iff, Option.isNone_iff_eq_none]

/-- After UPDATE, the line of a connected CPU is low exactly when nothing is viable (R405). -/
theorem update_irqOut_eq_false_iff (s : State) {c : Cpu} (hc : c.val < s.params.numCpu) :
    (update s).irqOut c = false ↔ viable (update s) c = none := by
  rw [State.irqOut, viable, update_arbOut_of_connected s hc]
  exact any_eq_false_iff_filter_eq_none _ _

theorem update_virqOut_eq_false_iff (s : State) {c : Cpu} (hc : c.val < s.params.numCpu) :
    (update s).virqOut c = false ↔ viableVirtual (update s) c = none := by
  rw [State.virqOut, viableVirtual, update_arbOut_of_connected s hc]
  exact any_eq_false_iff_filter_eq_none _ _

/-- What UPDATE selects of the list registers is pending (R407). -/
theorem pending_of_viableVirtual_update (s : State) {c : Cpu} (hc : c.val < s.params.numCpu) {i : LrIx}
    (h : viableVirtual (update s) c = some i) : (((update s).virtIf c).listReg i).pending = true := by
  obtain ⟨hselected, -⟩ := (viableVirtual_eq_some_iff _ c i).mp h
  obtain ⟨-, -, ⟨hpending, -⟩, -⟩ := (updateSelectsBestListRegister s c i hc).mp hselected
  exact hpending

/-- Settles O20: the line and the read test the selection alike, and a read that takes something changes the state. -/
theorem outputLineHighIffAcknowledgeSucceeds : Obligations.OutputLineHighIffAcknowledgeSucceeds := by
  intro s c hc
  have hcurrent : (update s).current c.val = c := current_connected (update s) c hc
  constructor
  · rw [update_irqOut_eq_false_iff s hc, exec_rdGiccIar_spurious_iff, hcurrent]
  · rw [update_virqOut_eq_false_iff s hc, exec_rdGicvIar_spurious_iff, hcurrent]
    rw [hcurrent]
    exact fun i => pending_of_viableVirtual_update s hc

/-! ## An acknowledge and its end (R286) -/

/-- The ID that the word of an acknowledge names to the end of interrupt (R129). -/
theorem setWidth_ofNat_intid (irq : Irq) (src : Nat) :
    ((BitVec.ofNat 32 (irq.val + 1024 * src)).setWidth 10).toNat = irq.val := by
  rw [BitVec.toNat_setWidth, BitVec.toNat_ofNat]
  omega

/-- The running priority that a CPU's stack gives (R282). -/
theorem restoredPrio_eq_of_stack {s : State} {c : Cpu}
    (h : (s.cpuIf c).stk = [] ∧ (s.cpuIf c).rpr = 0xff#8 ∨
      ∃ (x : Irq) (xs : List Irq), (s.cpuIf c).stk = x :: xs ∧ (s.cpuIf c).rpr = s.prio x.val c) :
    restoredPrio s c (s.cpuIf c).stk = (s.cpuIf c).rpr := by
  rcases h with ⟨hstk, hrpr⟩ | ⟨x, xs, hstk, hrpr⟩
  · rw [hstk, hrpr, restoredPrio]
  · rw [hstk, hrpr, restoredPrio]

theorem restoredPrio_congr {s t : State} {c : Cpu} (h : ∀ j : Nat, t.prio j c = s.prio j c) (stk : List Irq) :
    restoredPrio t c stk = restoredPrio s c stk := by
  cases stk with
  | nil => rfl
  | cons x xs => exact h x.val

theorem endInOrder_cpuIf (s : State) (c d : Cpu) (irq : Irq) (rest : List Irq) :
    (endInOrder s c irq rest).cpuIf d =
      if d = c then { s.cpuIf c with stk := rest, rpr := restoredPrio s c rest } else s.cpuIf d :=
  State.setCpuIf_cpuIf s c d _

/-- What an acknowledge that does not answer 1023 leaves of what its end of interrupt reads (R275). -/
theorem acknowledged_of_ne_spurious {s t : State} {init : Nat} {v : Word} (hexec : exec (.rdGiccIar init) s = .next t)
    (hresp : t.out.resp = some (.okData v)) (hne : v ≠ 1023#32) :
    ∃ irq : Irq, (v.setWidth 10).toNat = irq.val ∧ t.current init = s.current init ∧
      (∀ (j : Nat) (d : Cpu), t.prio j d = s.prio j d) ∧
      ∀ d : Cpu, t.cpuIf d = if d = s.current init then
        (s.cpuIf (s.current init)).push irq (s.prio irq.val (s.current init)) else s.cpuIf d := by
  cases hviable : viable s (s.current init) with
  | none =>
    rw [exec_rdGiccIar_of_none hviable] at hexec
    cases hexec
    cases hresp
    exact absurd rfl hne
  | some irq =>
    rw [exec_rdGiccIar_of_some hviable] at hexec
    cases hexec
    cases hresp
    refine ⟨irq, setWidth_ofNat_intid irq _, ?_, fun j d => takeInterrupt_prio s _ d irq j,
      fun d => takeInterrupt_cpuIf s _ d irq⟩
    rw [takeInterrupt_eq]
    rfl

/-- Settles O40: the acknowledge pushes its interrupt, which the end of interrupt then finds on top. -/
theorem acknowledgeThenEndRestoresPriority : Obligations.AcknowledgeThenEndRestoresPriority := by
  intro s t init v hexec hresp hne
  obtain ⟨irq, hid, hcurrent, hprio, hcpu⟩ := acknowledged_of_ne_spurious hexec hresp hne
  have hstk : (t.cpuIf (t.current init)).stk = irq :: (s.cpuIf (s.current init)).stk := by
    rw [hcurrent, hcpu, if_pos rfl]
  have heoir := exec_wrGiccEoir_of_ok (endInterrupt_of_head hid hstk)
  rw [hcurrent] at heoir
  refine ⟨_, heoir, fun d => ?stack, fun hrpr d => ?interface⟩
  all_goals simp only [State.respond_cpuIf, update_cpuIf, endInOrder_cpuIf]
  case stack =>
    split_ifs with hd
    · rw [hd]
    · rw [hcpu, if_neg hd]
  case interface =>
    split_ifs with hd
    · rw [restoredPrio_congr (fun j => hprio j _), restoredPrio_eq_of_stack hrpr, hcpu, if_pos rfl, hd]
    · rw [hcpu, if_neg hd]

end Sys2Proof.Machine
end

section
/-! SUPPORT. Reset (70_reset_and_hazards.md R480): the values it leaves are arbitrated, and meet every invariant. -/

namespace Sys2Proof.Machine

/-! ## Reset (R480) -/

/-- With the distributor and the virtual domains disabled, the pass selects nothing (R402, R406). -/
theorem arbFor_resetWith (p : Params) (c : Cpu) : arbFor (State.resetWith p) c = ArbOut.reset := by
  have hphys : hppirOf (State.resetWith p) c = none := rfl
  have hvirt : vhppirOf ((State.resetWith p).virtIf c) = none := by rw [State.resetWith_virtIf]; rfl
  rw [arbFor, hphys, hvirt]
  rfl

theorem resetWith_arbitrated (p : Params) : (State.resetWith p).Arbitrated :=
  (arbitrated_iff _).mpr fun c _ => by rw [arbFor_resetWith, State.resetWith_arbOut]

/-- UPDATE does not see the requests that wait. -/
theorem update_withInbox (s : State) (rest : List Request) :
    update { s with inbox := rest } = { update s with inbox := rest } := rfl

/-- Settles O13: the UPDATE of the RESET step leaves the reset state. -/
theorem resetStepInstallsResetState : Obligations.ResetStepInstallsResetState := by
  intro s
  have hupdate : update (State.resetWith s.params) = State.resetWith s.params := resetWith_arbitrated s.params
  rw [exec, execReset, update_withInbox, hupdate]
  rfl

/-- Settles O56: every invariant speaks of parts of the state that reset leaves at the same value everywhere. -/
theorem resetMeetsTheInvariants : Obligations.ResetMeetsTheInvariants := by
  intro p
  refine ⟨State.SgiSourcesMatch.resetWith p, (State.spiMasksUniform_iff _).mpr Store.SpisUniform.reset,
    fun c i => ?lists, fun c => ?rpr, fun c _ => State.resetWith_arbOut p c, State.UnimplementedQuiet.resetWith p,
    fun c _ => ?idle, resetWith_arbitrated p⟩
  case lists =>
    rw [State.resetWith_virtIf, VirtIf.reset_listReg]
    exact ListReg.faithful_reset
  case rpr =>
    rw [State.resetWith_virtIf]
    exact (aprPrio_zero _).symm
  case idle =>
    rw [State.resetWith_cpuIf]
    rfl

end Sys2Proof.Machine
end
